-- ==== Sys2Proof/Word.lean ====
section
/-!
DEFINITION. The block's number formats (spec 00_scope.md R9): the 32-bit word of an operation, a
raw telemetry word or a counter, and the 16-bit frame. The spec's `Time` is a natural number of
microseconds with no wrap (R9, R249, the spec's decision D4): it is written `Nat` throughout.
-/

namespace Sys2Proof

/-- A `u32`: an operation word (R91), a raw telemetry word (R83) or a counter (R25). -/
abbrev Word := BitVec 32

/-- A `u16`: a DShot frame (R80), a wire word (R82) or an edt word (R88). -/
abbrev Frame := BitVec 16

end Sys2Proof
end

