-- ==== Sys2Proof/Config.lean ====
section
/-!
DEFINITION. The parameters of spec 00_scope.md R7 that the source leaves open. They are fixed for
the life of a bus (R72, R270) and are held as plain data in the state, so that every statement is
made for all of them. Their default values stand in Machine/Params.lean.
-/

namespace Sys2Proof

/-- The open parameters (R7). No operation changes them (R72). -/
structure Config where
  /-- `MAX_CHANNELS`, OPEN, `1..16`. -/
  maxChannels : Nat
  /-- `CMD_SAVE_SETTINGS`, a command number. -/
  cmdSaveSettings : BitVec 11
  /-- `CMD_INFO_REQUEST`, a command number. -/
  cmdInfoRequest : BitVec 11
  /-- `GCR_MAP`, written as R87 writes it: entry `k` is the codeword of nibble `k`. -/
  gcrMap : List (BitVec 5)
  /-- `RX_WAIT_BOUND`, OPEN: `none` (unbounded) or a duration in microseconds. -/
  rxWaitBound : Option Nat
  deriving DecidableEq, Repr

/-- `CMD_MAX`, the largest command number (R7). -/
abbrev cmdMax : Nat := 47

end Sys2Proof
end

