-- ==== Sys2Proof/Syntax.lean ====
section
/-!
DEFINITION. The operations of spec/opcode_table.json, one constructor a row, with the operands of
spec 30_encoding.md R93.
-/

namespace Sys2Proof

/-- The block's eight operations (R92). Port inputs are no operands of the word (R93). -/
inductive Instr where
  /-- `ENCODE payload, t` (R120). -/
  | encode (payload : BitVec 11) (t : BitVec 1)
  /-- `DECODE` (R140). -/
  | decode
  /-- `SET_THROTTLE ch, value` (R210). -/
  | setThrottle (ch : BitVec 4) (value : BitVec 11)
  /-- `SEND_COMMAND ch, command, repeat_count` (R211). -/
  | sendCommand (ch : BitVec 4) (command : BitVec 11) (repeatCount : BitVec 8)
  /-- `START` (R170). -/
  | start
  /-- `COMPLETE` (R176). -/
  | complete
  /-- `READ_CHANNEL ch` (R214). -/
  | readChannel (ch : BitVec 4)
  /-- `READ_BUS` (R215). -/
  | readBus
  deriving DecidableEq, Repr

end Sys2Proof
end

