-- ==== Sys2Proof/WellFormed.lean ====
section
/-!
DEFINITION. Which operations are well formed: every operand fits its field by its type, and the
one extra constraint of spec 30_encoding.md R92 is that a command number is at most 47.
-/

namespace Sys2Proof

/-- The extra constraint of R92: SEND_COMMAND has `imm11 <= 47`. -/
def Instr.wellFormed : Instr → Bool
  | .encode _ _ => true
  | .decode => true
  | .setThrottle _ _ => true
  | .sendCommand _ command _ => decide (command.toNat ≤ cmdMax)
  | .start => true
  | .complete => true
  | .readChannel _ => true
  | .readBus => true

end Sys2Proof
end

