-- ==== Sys2Proof/Decode.lean ====
section
/-!
DEFINITION. The operation word of spec 30_encoding.md R91 to R95: the match and mask rows of R92,
the decoder with its two refusals (R94), and the encoder written from the patterns of R92.
-/

namespace Sys2Proof

/-- Why a word is refused (R94, R245). -/
inductive DecodeRefusal where
  /-- The word matches no row of R92. -/
  | illegalOp
  /-- The word is a SEND_COMMAND whose command number is above 47. -/
  | commandRange
  deriving DecidableEq, Repr

/-- The mnemonics of R92. -/
inductive Mnemonic where
  | ENCODE | DECODE | SET_THROTTLE | SEND_COMMAND | START | COMPLETE | READ_CHANNEL | READ_BUS
  deriving DecidableEq, Repr

/-- One row of R92's table: a word `w` selects it when `w & mask = bits`. -/
structure OpRow where
  mnemonic : Mnemonic
  bits : Word
  mask : Word
  deriving DecidableEq, Repr

/-- The rows of R92, in the table's order. -/
def opRows : List OpRow :=
  [ ⟨.ENCODE,       0x10000000, 0xFFFFF000⟩,
    ⟨.DECODE,       0x20000000, 0xFFFFFFFF⟩,
    ⟨.SET_THROTTLE, 0x30000000, 0xF0FFF800⟩,
    ⟨.SEND_COMMAND, 0x40000000, 0xF000F800⟩,
    ⟨.START,        0x50000000, 0xFFFFFFFF⟩,
    ⟨.COMPLETE,     0x60000000, 0xFFFFFFFF⟩,
    ⟨.READ_CHANNEL, 0x70000000, 0xF0FFFFFF⟩,
    ⟨.READ_BUS,     0x80000000, 0xFFFFFFFF⟩ ]

/-- A word selects a row when `(w & mask) == match` (R92). -/
def OpRow.selects (r : OpRow) (w : Word) : Bool := w &&& r.mask == r.bits

/-- `ch = w[27:24]` (R91). -/
def chField (w : Word) : BitVec 4 := w.extractLsb' 24 4

/-- `rep = w[23:16]` (R91). -/
def repField (w : Word) : BitVec 8 := w.extractLsb' 16 8

/-- `t = w[11]` (R91). -/
def tField (w : Word) : BitVec 1 := w.extractLsb' 11 1

/-- `imm11 = w[10:0]` (R91). -/
def immField (w : Word) : BitVec 11 := w.extractLsb' 0 11

/-- Operand assembly (R93): every operand is a zero-extended field of the word. -/
def assemble (m : Mnemonic) (w : Word) : Instr :=
  match m with
  | .ENCODE => .encode (immField w) (tField w)
  | .DECODE => .decode
  | .SET_THROTTLE => .setThrottle (chField w) (immField w)
  | .SEND_COMMAND => .sendCommand (chField w) (immField w) (repField w)
  | .START => .start
  | .COMPLETE => .complete
  | .READ_CHANNEL => .readChannel (chField w)
  | .READ_BUS => .readBus

/-- The decoder, total on every word. A word of no row is refused as IllegalOp; a row whose extra
constraint fails is refused as CommandRange (R92, R94, R245). -/
def decode (w : Word) : Except DecodeRefusal Instr :=
  match opRows.find? (·.selects w) with
  | none => .error .illegalOp
  | some r =>
    if (assemble r.mnemonic w).wellFormed then .ok (assemble r.mnemonic w)
    else .error .commandRange

/-- The encoder, written from the patterns of R92, bit 31 first. -/
def encode : Instr → Word
  | .encode payload t => 1#4 ++ 0#4 ++ 0#8 ++ 0#4 ++ t ++ payload
  | .decode => 2#4 ++ 0#28
  | .setThrottle ch value => 3#4 ++ ch ++ 0#8 ++ 0#4 ++ 0#1 ++ value
  | .sendCommand ch command rep => 4#4 ++ ch ++ rep ++ 0#4 ++ 0#1 ++ command
  | .start => 5#4 ++ 0#28
  | .complete => 6#4 ++ 0#28
  | .readChannel ch => 7#4 ++ ch ++ 0#24
  | .readBus => 8#4 ++ 0#28

/-- The word the opcode table's numbering calls `w`, with every bit from `nbits` up zero. Every
operation word is exactly 32 bits (R95) and is presented whole, so no byte order arises (R61). -/
def tableWord (nbits w : Nat) : Word := BitVec.ofNat 32 (w % 2 ^ nbits)

/-- What the decoder reads from a word of the opcode table. -/
def decodeTableWord (nbits w : Nat) : Option Instr :=
  match decode (tableWord nbits w) with
  | .ok i => some i
  | .error _ => none

end Sys2Proof
end

