-- ==== Sys2Proof/Machine/Params.lean ====
section
/-!
DEFINITION. The literals of spec 00_scope.md R7, taken as written (R8), and the default values of
the open parameters (log entries 2, 3 and 4).
-/

namespace Sys2Proof.Machine

/-- `T_SAVE_DELAY`, 35 ms (R7). -/
abbrev tSaveDelay : Nat := 35000

/-- `T_INFO_DELAY`, 12 ms (R7). -/
abbrev tInfoDelay : Nat := 12000

/-- `T_IDLE`, the idle failsafe threshold, 500 ms (R7). -/
abbrev tIdle : Nat := 500000

/-- `ERPM_NUMERATOR` (R7). -/
abbrev erpmNumerator : Nat := 60000000

/-- `ERPM_STOPPED`, the stopped-motor period (R7). -/
abbrev erpmStopped : Nat := 0xFF80

/-- `25 * SPEED_KHZ * 40 / 1000` in natural arithmetic, as a `u32` (R29). -/
def bitPeriod (speedKhz : Nat) : Word := BitVec.ofNat 32 (25 * speedKhz * 40 / 1000)

/-- The valid codewords (R86). -/
def validCodewords : List (BitVec 5) :=
  [0x09, 0x0A, 0x0B, 0x0D, 0x0E, 0x0F, 0x12, 0x13, 0x15, 0x16, 0x17, 0x19, 0x1A, 0x1B, 0x1D, 0x1E]

/-- R87's default `GCR_MAP`, the codeword of each nibble (PRESUMED by the spec itself: G1). -/
def gcrMapStandard : List (BitVec 5) :=
  [0x19, 0x1B, 0x12, 0x13, 0x1D, 0x15, 0x16, 0x17, 0x1A, 0x09, 0x0A, 0x0B, 0x1E, 0x0D, 0x0E, 0x0F]

/-- R87's alternative `GCR_MAP_LISTED`: the i-th listed codeword maps to nibble i. -/
def gcrMapListed : List (BitVec 5) := validCodewords

/-- The parameters `State.reset` is built with: R7's defaults, the largest `MAX_CHANNELS` and no
receive bound (log entries 2, 3 and 4). -/
def defaultConfig : Config where
  maxChannels := 16
  cmdSaveSettings := 12
  cmdInfoRequest := 6
  gcrMap := gcrMapStandard
  rxWaitBound := none

end Sys2Proof.Machine
end

