-- ==== Sys2Proof/Machine/FrameCodec.lean ====
section
/-!
DEFINITION. The frame encoder of spec 40_frame_codec.md: the checksum (R121), `encode` (R120), the
fields of a frame (R80), the kinds of frame (R81) and the wire word (R82).
-/

namespace Sys2Proof.Machine

/-- The transmit checksum `~(value ^ (value >> 4) ^ (value >> 8)) & 0xF` (R121). -/
def crc4 (value : BitVec 12) : BitVec 4 :=
  (~~~(value ^^^ (value >>> 4) ^^^ (value >>> 8)) &&& 0xF).setWidth 4

/-- `encode(payload, t)`: `{payload, t, crc}` (R120). -/
def encodeFrame (payload : BitVec 11) (t : BitVec 1) : Frame :=
  (payload ++ t) ++ crc4 (payload ++ t)

/-- `frame[15:5]` (R80). -/
def payloadOf (f : Frame) : BitVec 11 := f.extractLsb' 5 11

/-- `frame[4]`, the telemetry bit (R80). -/
def telemetryBitOf (f : Frame) : BitVec 1 := f.extractLsb' 4 1

/-- `frame[15:4] = {payload, t}`, the source's `value` (R80). -/
def valueOf (f : Frame) : BitVec 12 := f.extractLsb' 4 12

/-- `frame[3:0]` (R80). -/
def crcOf (f : Frame) : BitVec 4 := f.extractLsb' 0 4

/-- A frame is checksum-consistent when `f[3:0] = crc4(f[15:4])` (R122). -/
def checksumConsistent (f : Frame) : Bool := crcOf f == crc4 (valueOf f)

/-- A throttle frame: `encode(v, 0)`, with `v` read off the frame (R81, R123). -/
def isThrottleFrame (f : Frame) : Bool := f == encodeFrame (payloadOf f) 0

/-- A command frame: `encode(c, 1)` with `c <= 47`, with `c` read off the frame (R81, R123). -/
def isCommandFrame (f : Frame) : Bool :=
  decide ((payloadOf f).toNat ≤ cmdMax) && f == encodeFrame (payloadOf f) 1

/-- The neutral frame `encode(0, 0)` (R81). -/
def neutralFrame : Frame := encodeFrame 0 0

/-- The wire word `~f & 0xFFFF` (R82). The complement is taken between the block and the line, so
no event carries it (R67). -/
def wireWord (f : Frame) : Frame := ~~~f &&& 0xFFFF

end Sys2Proof.Machine
end

