-- ==== Sys2Proof/Machine/State.lean ====
section
/-!
DEFINITION. The state of one bus as plain data (spec 10_state.md R20 to R38), its ports and events
(spec 20_memory.md R64, R65), why a step stops (spec 60_exceptions.md R245), and the state after
reset (R38, R270).
-/

namespace Sys2Proof.Machine

/-- The two values of `bus.phase` (R30). -/
inductive Phase where
  | idle
  | awaitRx
  deriving DecidableEq, Repr

/-- The status of a decode (R90). The numeric codes stand in Machine/Flags.lean. -/
inductive Status where
  | ok
  | timeout
  | badGcr
  | badCrc
  | badType
  deriving DecidableEq, Repr

/-- The telemetry kinds (R90). -/
inductive Kind where
  | erpm
  | voltage
  | current
  | temperature
  | status
  | debug1
  | debug2
  | stress
  deriving DecidableEq, Repr

/-- The triple `(status, kind, value)` of a decode (R90). `value` is an `i32`. Where the status is
not OK, `kind` and `value` are 0, which is the code of `erpm`. -/
structure DecodeResult where
  status : Status
  kind : Kind
  value : BitVec 32
  deriving DecidableEq, Repr

/-- One channel record, `ch[i]` (R21 to R25). -/
structure Channel where
  frame : Frame
  lastThrottleFrame : Frame
  repeatCounter : BitVec 8
  delayDeadline : Option Nat
  txFrames : Word
  rxFrames : Word
  rxTimeout : Word
  rxBadGcr : Word
  rxBadCrc : Word
  rxBadType : Word
  deriving DecidableEq, Repr

/-- The bus registers (R26 to R31), which READ_BUS returns in this order (R73). -/
structure Bus where
  /-- `bus.N`. -/
  n : Nat
  currentChannel : Nat
  lastCommandTime : Nat
  bitPeriodCycles : Word
  phase : Phase
  txSelect : Nat
  deriving DecidableEq, Repr

/-- The output events (R65). -/
inductive Event where
  /-- `Select(c)`. -/
  | select (c : Nat)
  /-- `Submit(frame, cycles)`; the frame is not complemented (R67). -/
  | submit (frame : Frame) (cycles : Word)
  /-- `Telemetry(c, kind, value)`. -/
  | telemetry (c : Nat) (kind : Kind) (value : BitVec 32)
  deriving DecidableEq, Repr

/-- A value on the result port (R65): of ENCODE, DECODE, READ_CHANNEL and READ_BUS. -/
inductive OpResult where
  | frame (f : Frame)
  | decoded (r : DecodeResult)
  | channel (r : Option Channel)
  | bus (b : Bus)
  deriving DecidableEq, Repr

/-- The input ports of one operation (R64). `rxPresented` says whether the transport has presented
`rx_word` (R66); DECODE takes the word whatever it says (R64). -/
structure Ports where
  now : Nat
  txReady : Bool
  rxWord : Word
  rxPresented : Bool
  deriving DecidableEq, Repr

/-- One input of the block: an operation word with its ports (R64), a reset (R270), or the bus's
teardown (R270). -/
inductive Input where
  | op (word : Word) (ports : Ports)
  | reset (n speedKhz : Nat) (t0 : Nat)
  | teardown
  deriving DecidableEq, Repr

/-- One bus, with what it has emitted and what its environment will present. -/
structure State where
  /-- The channel records, in index order (R20). -/
  ch : List Channel
  /-- The bus registers. -/
  bus : Bus
  /-- The `now` of the preceding START, from which R66 counts the receive bound (log entry 8). -/
  startTime : Nat
  /-- Whether the first reset has happened (R270). -/
  constructed : Bool
  /-- The port values of the latest operation; its `now` is the previous `now` of R283. -/
  ports : Ports
  /-- The output event sequence (R65), oldest first. -/
  events : List Event
  /-- The values returned on the result port (R65), oldest first. -/
  results : List OpResult
  /-- The parameters, fixed for the life of the bus (R72, R270). -/
  config : Config
  /-- What the environment will present, next first: the model's own field (log entry 1). -/
  inputs : List Input
  deriving DecidableEq, Repr

/-- Why the machine stops without the spec refusing the operation. Each is a stuck state. -/
inductive Fault where
  /-- Raised by `step` when no input is left: the block runs only when an operation arrives (R34).
  Safe: the model stops where the hardware waits for its host. -/
  | noOperation
  /-- Raised by COMPLETE when the transport has not presented its word and no bound has expired:
  "COMPLETE has no step. The bus is stuck" (R66, R280). Safe: the hardware waits too. -/
  | awaitingRxWord
  /-- Raised by START and COMPLETE when the addressed channel has no record (R20: no record exists
  for an index at or above `N`); no state that satisfies R40 (I1) raises it. Safe: the model stops. -/
  | noSuchChannel
  /-- Raised by `step` at the bus's teardown: "Teardown ends the run" (R270). Safe: the run ends. -/
  | tornDown
  deriving DecidableEq, Repr

/-- The refusals of R245. All are safe: "Each refusal errs toward unprovable". -/
inductive Refusal where
  /-- Raised by no arm of `exec` once every operation has its meaning. Safe. -/
  | notModelled (mnemonic : String)
  /-- Raised by `step` on a word that matches no row of the opcode table (R94). Safe. -/
  | illegalOp
  /-- Raised by `step` and SEND_COMMAND on a command number above 47 (R94). Safe. -/
  | commandRange
  /-- Raised by START in AWAIT_RX and by COMPLETE in IDLE (R274). Safe. -/
  | phaseOrder
  /-- Raised by a reset whose arguments are out of range (R270). Safe. -/
  | badConfig
  /-- Raised by `step` on an operation whose `now` is before the previous one's (R283). Safe. -/
  | timeReversal
  /-- Raised by `step` on an operation before the first reset (R270). Safe. -/
  | beforeReset
  deriving DecidableEq, Repr

/-- A channel record after reset (R38). -/
def resetChannel : Channel where
  frame := neutralFrame
  lastThrottleFrame := neutralFrame
  repeatCounter := 0
  delayDeadline := none
  txFrames := 0
  rxFrames := 0
  rxTimeout := 0
  rxBadGcr := 0
  rxBadCrc := 0
  rxBadType := 0

/-- The bus registers after reset with arguments `(N, SPEED_KHZ, t0)` (R38). -/
def resetBusRegisters (n speedKhz : Nat) (t0 : Nat) : Bus where
  n := n
  currentChannel := n - 1
  lastCommandTime := t0
  bitPeriodCycles := bitPeriod speedKhz
  phase := .idle
  txSelect := n - 1

/-- The state after reset with arguments `(N, SPEED_KHZ, t0)` (R38, R270), with the parameters
`config` and the inputs still to come. The values of `startTime`, `ports` and `results` are the
model's (log entries 8, 9, 12 and 16). -/
def State.afterReset (config : Config) (n speedKhz : Nat) (t0 : Nat) (inputs : List Input) :
    State where
  ch := List.replicate n resetChannel
  bus := resetBusRegisters n speedKhz t0
  startTime := t0
  constructed := true
  ports := ⟨t0, false, 0, false⟩
  events := []
  results := []
  config := config
  inputs := inputs

/-- The machine right after `RESET 4, 600 @ now=0` at the default parameters: the arguments of
spec 95_test_vectors.md (log entry 2). -/
def State.reset : State := State.afterReset defaultConfig 4 600 0 []

/-- The bus before its first reset, with the parameters `config`: every operation is refused
(R270). What it holds in its registers is never read (log entry 13). -/
def State.beforeReset (config : Config) (inputs : List Input) : State :=
  { State.afterReset config 0 0 0 inputs with constructed := false }

end Sys2Proof.Machine
end

