-- ==== Sys2Proof/Machine/Flags.lean ====
section
/-!
DEFINITION. The block has no status flags or condition codes (spec 10_state.md R33). This file
holds its only flag-like values: the conditions read off a channel's registers (R32), the numeric
codes of R90, and the idle failsafe's test (R180).
-/

namespace Sys2Proof.Machine

/-- **Repeating**: `repeat_counter > 0` (R32). -/
def Channel.repeating (c : Channel) : Bool := decide (c.repeatCounter.toNat > 0)

/-- **Idle**: `repeat_counter = 0` (R32). -/
def Channel.idle (c : Channel) : Bool := c.repeatCounter == 0

/-- **Delaying**: `delay_deadline != none` (R32). -/
def Channel.delaying (c : Channel) : Bool := c.delayDeadline != none

/-- The status codes of R90. -/
def Status.code : Status → Nat
  | .ok => 0
  | .timeout => 1
  | .badGcr => 2
  | .badCrc => 3
  | .badType => 4

/-- The kind codes of R90. -/
def Kind.code : Kind → Nat
  | .erpm => 0
  | .voltage => 1
  | .current => 2
  | .temperature => 3
  | .status => 4
  | .debug1 => 5
  | .debug2 => 6
  | .stress => 7

/-- The failsafe's test, strict and written so that an early `now` cannot fire it:
`now > last_command_time + T_IDLE` (R180). -/
def failsafeDue (now lastCommandTime : Nat) : Bool := decide (now > lastCommandTime + tIdle)

end Sys2Proof.Machine
end

