-- ==== Sys2Proof/Machine/Operands.lean ====
section
/-!
DEFINITION. Where an operation's inputs come from. The operands of the word are its fields
(spec 30_encoding.md R93, assembled in Decode.lean); this file holds the port operands (spec
20_memory.md R64), the word COMPLETE waits for (R66, R177), and the channel operand's range (R39,
R62).
-/

namespace Sys2Proof.Machine

/-- The operation's `now` (R64). -/
def opNow (s : State) : Nat := s.ports.now

/-- The transport's readiness, sampled by START only (R64). -/
def opTxReady (s : State) : Bool := s.ports.txReady

/-- The raw word at the `rx_word` port (R64). -/
def opRxWord (s : State) : Word := s.ports.rxWord

/-- Whether COMPLETE's wait has run out: `RX_WAIT_BOUND = some d` and `d` microseconds have passed
since the preceding START (R66; log entry 7). -/
def rxWaitExpired (s : State) : Bool :=
  match s.config.rxWaitBound with
  | none => false
  | some d => decide (s.startTime + d ≤ opNow s)

/-- The word COMPLETE consumes: the presented word; 0 where the wait has run out; none while it
waits, and then COMPLETE has no step (R66, R177). -/
def receivedWord (s : State) : Option Word :=
  if s.ports.rxPresented then some (opRxWord s)
  else if rxWaitExpired s then some 0
  else none

/-- A channel operand below `N` addresses a record (R39, R62). -/
def inRange (c : BitVec 4) (s : State) : Bool := decide (c.toNat < s.bus.n)

end Sys2Proof.Machine
end

