-- ==== Sys2Proof/Machine/Telemetry.lean ====
section
/-!
DEFINITION. The telemetry decoder of spec 41_telemetry_decoder.md: the transition decode (R142),
the codeword check (R143), the edt word (R144), its checksum (R145) and its classification (R146
to R149), for any `GCR_MAP`.
-/

namespace Sys2Proof.Machine

/-- `gcr = raw ^ (raw >> 1)`, a logical shift (R84, R142). -/
def transitionDecode (raw : Word) : Word := raw ^^^ (raw >>> 1)

/-- The five-bit group of `gcr` at offset `k` (R85). -/
def gcrGroup (gcr : Word) (k : Nat) : BitVec 5 := gcr.extractLsb' k 5

/-- Whether a group is a valid codeword (R86). -/
def validCodeword (g : BitVec 5) : Bool := validCodewords.contains g

/-- The nibble `GCR_MAP` gives a codeword: the place of the codeword in the map (R87). -/
def gcrNibble (gcrMap : List (BitVec 5)) (g : BitVec 5) : BitVec 4 :=
  BitVec.ofNat 4 (gcrMap.idxOf g)

/-- `edt = {GCR_MAP(g3), GCR_MAP(g2), GCR_MAP(g1), GCR_MAP(g0)}` (R88, R144). -/
def edtWord (gcrMap : List (BitVec 5)) (g3 g2 g1 g0 : BitVec 5) : Frame :=
  gcrNibble gcrMap g3 ++ gcrNibble gcrMap g2 ++ gcrNibble gcrMap g1 ++ gcrNibble gcrMap g0

/-- `~(edt>>4 ^ edt>>8 ^ edt>>12) & 0xF` (R145, R10). -/
def edtChecksum (edt : Frame) : BitVec 4 :=
  (~~~((edt >>> 4) ^^^ (edt >>> 8) ^^^ (edt >>> 12)) &&& 0xF).setWidth 4

/-- A failed decode: kind and value are 0 (R90). -/
def decodeFailed (status : Status) : DecodeResult := ⟨status, .erpm, 0⟩

/-- The value of an Extended Telemetry word (R89, R147), with the source's last line "any other
even nonzero value → BadType" kept as it stands (R148). -/
def edtValue (top : BitVec 4) (m : BitVec 8) : DecodeResult :=
  match top.toNat with
  | 0x2 => ⟨.ok, .temperature, m.setWidth 32⟩
  | 0x4 => ⟨.ok, .voltage, BitVec.ofNat 32 (m.toNat / 4)⟩
  | 0x6 => ⟨.ok, .current, m.setWidth 32⟩
  | 0x8 => ⟨.ok, .debug1, m.setWidth 32⟩
  | 0xA => ⟨.ok, .debug2, m.setWidth 32⟩
  | 0xC => ⟨.ok, .stress, m.setWidth 32⟩
  | 0xE => ⟨.ok, .status, m.setWidth 32⟩
  | _ => decodeFailed .badType

/-- The period `m << e`, a natural number (R149). -/
def erpmPeriod (e : BitVec 3) (m : BitVec 9) : Nat := m.toNat <<< e.toNat

/-- The legacy eRPM value of a period: 0 for the stopped sentinel, 0 for period 0, otherwise
`60_000_000 / period` (R149). -/
def erpmOfPeriod (period : Nat) : BitVec 32 :=
  if period = erpmStopped then 0
  else if period = 0 then 0
  else BitVec.ofNat 32 (erpmNumerator / period)

/-- `top != 0 and top even` selects Extended Telemetry (R146). -/
def isExtended (top : BitVec 4) : Bool := top != 0 && top.toNat % 2 == 0

/-- The classification of a checksum-correct edt word, step 6 (R88, R146 to R149). -/
def classify (edt : Frame) : DecodeResult :=
  if isExtended (edt.extractLsb' 12 4) then edtValue (edt.extractLsb' 12 4) (edt.extractLsb' 4 8)
  else ⟨.ok, .erpm, erpmOfPeriod (erpmPeriod (edt.extractLsb' 13 3) (edt.extractLsb' 4 9))⟩

/-- Steps 4 to 6 on four valid groups (R144 to R149). -/
def decodeGroups (gcrMap : List (BitVec 5)) (g3 g2 g1 g0 : BitVec 5) : DecodeResult :=
  let edt := edtWord gcrMap g3 g2 g1 g0
  if edt.extractLsb' 0 4 = edtChecksum edt then classify edt else decodeFailed .badCrc

/-- `decode(raw)` (R140): the steps in order, the first that yields a result ends it (R242). -/
def decodeTelemetry (gcrMap : List (BitVec 5)) (raw : Word) : DecodeResult :=
  if raw = 0 then decodeFailed .timeout
  else
    let gcr := transitionDecode raw
    let g3 := gcrGroup gcr 15
    let g2 := gcrGroup gcr 10
    let g1 := gcrGroup gcr 5
    let g0 := gcrGroup gcr 0
    if validCodeword g3 && validCodeword g2 && validCodeword g1 && validCodeword g0 then
      decodeGroups gcrMap g3 g2 g1 g0
    else decodeFailed .badGcr

end Sys2Proof.Machine
end

