-- ==== Sys2Proof/Machine/Ops.lean ====
section
/-!
DEFINITION. The named operations over the register file, the events and the result port that the
meanings are made of. The block takes no exception and returns from none (spec 60_exceptions.md
R240, R243), so there is no exception entry here; reset (spec 70_reset_and_hazards.md R270) is the
only system operation.
-/

namespace Sys2Proof.Machine

/-- `emit E`: append an event to the output event sequence (R11, R65). -/
def emit (e : Event) (s : State) : State := { s with events := s.events ++ [e] }

/-- `result <- v`: return a value on the result port (R11, R65). -/
def returnResult (v : OpResult) (s : State) : State := { s with results := s.results ++ [v] }

/-- Write channel `k`'s record; an index with no record writes nothing (R20). -/
def updateChannel (k : Nat) (f : Channel → Channel) (s : State) : State :=
  { s with ch := s.ch.modify k f }

/-- `bus.phase <- p` (R30). -/
def setPhase (p : Phase) (s : State) : State := { s with bus := { s.bus with phase := p } }

/-- `bus.last_command_time <- t` (R28). -/
def setLastCommandTime (t : Nat) (s : State) : State :=
  { s with bus := { s.bus with lastCommandTime := t } }

/-! ### Host commands -/

/-- SET_THROTTLE's writes to its channel (R210). -/
def throttleChannel (value : BitVec 11) (c : Channel) : Channel :=
  { c with
    frame := encodeFrame value 0
    lastThrottleFrame := encodeFrame value 0
    repeatCounter := 0
    delayDeadline := none }

/-- The path of SET_THROTTLE on an existing channel (R210), which the failsafe takes too (R181). -/
def throttlePath (k : Nat) (value : BitVec 11) (now : Nat) (s : State) : State :=
  setLastCommandTime now (updateChannel k (throttleChannel value) s)

/-- The delay policy `delay_for(command, now)` (R212). -/
def delayFor (cfg : Config) (command : BitVec 11) (now : Nat) : Option Nat :=
  if command = cfg.cmdSaveSettings then some (now + tSaveDelay)
  else if command = cfg.cmdInfoRequest then some (now + tInfoDelay)
  else none

/-- SEND_COMMAND's writes to its channel (R211): a prior delay is replaced (R213), and
`last_throttle_frame` is kept. -/
def commandChannel (cfg : Config) (command : BitVec 11) (repeatCount : BitVec 8) (now : Nat)
    (c : Channel) : Channel :=
  { c with
    frame := encodeFrame command 1
    repeatCounter := repeatCount
    delayDeadline := delayFor cfg command now }

/-- The path of SEND_COMMAND on an existing channel (R211). -/
def commandPath (k : Nat) (command : BitVec 11) (repeatCount : BitVec 8) (now : Nat)
    (s : State) : State :=
  setLastCommandTime now
    (updateChannel k (commandChannel s.config command repeatCount now) s)

/-! ### START's steps -/

/-- The next channel in the round robin (R171). -/
def nextChannel (b : Bus) : Nat := (b.currentChannel + 1) % b.n

/-- START step 1, advance (R171): with `N > 1` the pointer and `tx_select` move and `Select` is
emitted; with `N = 1` nothing happens. -/
def advance (s : State) : State :=
  if s.bus.n > 1 then
    emit (.select (nextChannel s.bus))
      { s with bus := { s.bus with
          currentChannel := nextChannel s.bus
          txSelect := nextChannel s.bus } }
  else s

/-- START step 2, repeat (R172): a positive counter counts down, and the frame reverts to the last
throttle frame on the transition from 1 to 0. -/
def repeatStep (c : Channel) : Channel :=
  if c.repeatCounter.toNat > 0 then
    if c.repeatCounter - 1 = 0 then
      { c with repeatCounter := c.repeatCounter - 1, frame := c.lastThrottleFrame }
    else { c with repeatCounter := c.repeatCounter - 1 }
  else c

/-- START step 3, delay expiry (R173): the deadline is cleared when `now >= delay_deadline`. -/
def expireDelay (now : Nat) (c : Channel) : Channel :=
  match c.delayDeadline with
  | some d => if now ≥ d then { c with delayDeadline := none } else c
  | none => c

/-- `tx_frames` counts a submission, modulo 2^32 (R25, R174). -/
def countTx (c : Channel) : Channel := { c with txFrames := c.txFrames + 1 }

/-- START's test for submitting: not delaying, and the transport's output is ready (R174). -/
def submits (ready : Bool) (c : Channel) : Bool := !c.delaying && ready

/-- START steps 2 to 4 on the addressed channel `k`, whose record is `c` (R172 to R174). -/
def serveChannel (k : Nat) (c : Channel) (s : State) : State :=
  let c' := expireDelay (opNow s) (repeatStep c)
  if submits (opTxReady s) c' then
    updateChannel k (fun _ => countTx c') (emit (.submit c'.frame s.bus.bitPeriodCycles) s)
  else updateChannel k (fun _ => c') s

/-- START's last step: the phase becomes AWAIT_RX (R175), and the time of this START is kept for
the receive bound (R66). -/
def awaitAnswer (s : State) : State := { setPhase .awaitRx s with startTime := opNow s }

/-! ### COMPLETE's steps -/

/-- COMPLETE's statistics (R178): exactly one counter is incremented, modulo 2^32. -/
def countRx (status : Status) (c : Channel) : Channel :=
  match status with
  | .ok => { c with rxFrames := c.rxFrames + 1 }
  | .timeout => { c with rxTimeout := c.rxTimeout + 1 }
  | .badGcr => { c with rxBadGcr := c.rxBadGcr + 1 }
  | .badCrc => { c with rxBadCrc := c.rxBadCrc + 1 }
  | .badType => { c with rxBadType := c.rxBadType + 1 }

/-- COMPLETE's dispatch (R179): `Telemetry` on success, nothing on an error (R243). -/
def dispatchTelemetry (k : Nat) (r : DecodeResult) (s : State) : State :=
  match r.status with
  | .ok => emit (.telemetry k r.kind r.value) s
  | .timeout => s
  | .badGcr => s
  | .badCrc => s
  | .badType => s

/-- `NEUTRALIZE(i, now)` (R181): SET_THROTTLE's path with value 0. -/
def neutralize (now : Nat) (s : State) (i : Nat) : State := throttlePath i 0 now s

/-- The idle failsafe (R180): where it is due, every channel in increasing order is neutralised. -/
def failsafe (s : State) : State :=
  if failsafeDue (opNow s) s.bus.lastCommandTime then
    (List.range s.bus.n).foldl (neutralize (opNow s)) s
  else s

/-! ### Reset -/

/-- The legal reset arguments: `1 <= N <= MAX_CHANNELS` and `1 <= SPEED_KHZ <= 65535` (R270). -/
def resetArgsLegal (cfg : Config) (n speedKhz : Nat) : Bool :=
  decide (1 ≤ n ∧ n ≤ cfg.maxChannels ∧ 1 ≤ speedKhz ∧ speedKhz ≤ 65535)

/-- Reset (R270, R271, R272): every register takes its reset value, the event sequence is cleared
and nothing is emitted; illegal arguments are refused. The parameters and the inputs still to come
are kept. -/
def resetBus (n speedKhz : Nat) (t0 : Nat) (s : State) : Host.Outcome State Fault Refusal :=
  if resetArgsLegal s.config n speedKhz then
    .next (State.afterReset s.config n speedKhz t0 s.inputs)
  else .refused .badConfig

end Sys2Proof.Machine
end

