-- ==== Sys2Proof/Machine/Codec.lean ====
section
/-!
DEFINITION. The meanings of the combinational operations ENCODE (spec 40_frame_codec.md R120) and
DECODE (spec 41_telemetry_decoder.md R140). Both write no register and emit no event.
-/

namespace Sys2Proof.Machine

/-- ENCODE (R120): `result <- encode(payload, t)`. -/
def execEncode (payload : BitVec 11) (t : BitVec 1) (s : State) :
    Host.Outcome State Fault Refusal :=
  .next (returnResult (.frame (encodeFrame payload t)) s)

/-- DECODE (R140): `result <- decode(rx_word)`. It records nothing. -/
def execDecode (s : State) : Host.Outcome State Fault Refusal :=
  .next (returnResult (.decoded (decodeTelemetry s.config.gcrMap (opRxWord s))) s)

end Sys2Proof.Machine
end

