-- ==== Sys2Proof/Machine/HostCommands.lean ====
section
/-!
DEFINITION. The meanings of the host-facing operations of spec 43_host_commands.md: SET_THROTTLE
(R210), SEND_COMMAND (R211 to R213), READ_CHANNEL (R214) and READ_BUS (R215), in either phase
(R69).
-/

namespace Sys2Proof.Machine

/-- SET_THROTTLE (R210). A channel at or above `N` is a silent no-op (R216). -/
def execSetThrottle (c : BitVec 4) (value : BitVec 11) (s : State) :
    Host.Outcome State Fault Refusal :=
  if inRange c s then .next (throttlePath c.toNat value (opNow s) s) else .next s

/-- SEND_COMMAND (R211). A command number above 47 is refused (R245, CommandRange); a channel at or
above `N` is a silent no-op (R216). -/
def execSendCommand (c : BitVec 4) (command : BitVec 11) (repeatCount : BitVec 8) (s : State) :
    Host.Outcome State Fault Refusal :=
  if command.toNat ≤ cmdMax then
    if inRange c s then .next (commandPath c.toNat command repeatCount (opNow s) s) else .next s
  else .refused .commandRange

/-- READ_CHANNEL (R214): `result <- (c < N) ? some ch[c] : none` (R73). -/
def execReadChannel (c : BitVec 4) (s : State) : Host.Outcome State Fault Refusal :=
  .next (returnResult (.channel (if inRange c s then s.ch[c.toNat]? else none)) s)

/-- READ_BUS (R215): the record of the bus registers (R73). -/
def execReadBus (s : State) : Host.Outcome State Fault Refusal :=
  .next (returnResult (.bus s.bus) s)

end Sys2Proof.Machine
end

