-- ==== Sys2Proof/Machine/MotorBus.lean ====
section
/-!
DEFINITION. The meanings of the multiplex cycle's two operations, START (spec 42_multiplexer.md
R170 to R175) and COMPLETE (R176 to R181), with the phase order of spec 70_reset_and_hazards.md
R274.
-/

namespace Sys2Proof.Machine

/-- START's effect in the phase IDLE (R171 to R175). -/
def startCycle (s : State) : Host.Outcome State Fault Refusal :=
  let s₁ := advance s
  match s₁.ch[s₁.bus.currentChannel]? with
  | none => .fault .noSuchChannel
  | some c => .next (awaitAnswer (serveChannel s₁.bus.currentChannel c s₁))

/-- START (R170): legal only in IDLE (R30, R274). -/
def execStart (s : State) : Host.Outcome State Fault Refusal :=
  match s.bus.phase with
  | .idle => startCycle s
  | .awaitRx => .refused .phaseOrder

/-- COMPLETE's registers and events once it has its word (R178 to R181). -/
def completeWith (raw : Word) (s : State) : State :=
  let k := s.bus.currentChannel
  let r := decodeTelemetry s.config.gcrMap raw
  setPhase .idle (failsafe (dispatchTelemetry k r (updateChannel k (countRx r.status) s)))

/-- COMPLETE's effect in the phase AWAIT_RX (R177 to R181): it has no step until it has its word. -/
def completeCycle (s : State) : Host.Outcome State Fault Refusal :=
  match receivedWord s with
  | none => .fault .awaitingRxWord
  | some raw =>
    match s.ch[s.bus.currentChannel]? with
    | none => .fault .noSuchChannel
    | some _ => .next (completeWith raw s)

/-- COMPLETE (R176): legal only in AWAIT_RX (R30, R274). -/
def execComplete (s : State) : Host.Outcome State Fault Refusal :=
  match s.bus.phase with
  | .awaitRx => completeCycle s
  | .idle => .refused .phaseOrder

end Sys2Proof.Machine
end

