-- ==== Sys2Proof/Machine/Dispatch.lean ====
section
/-! DEFINITION. One arm per operation of spec/opcode_table.json, each a call of its meaning. -/

namespace Sys2Proof.Machine

def exec (i : Instr) (s : State) : Host.Outcome State Fault Refusal :=
  match i with
  | .encode payload t => Sys2Proof.Machine.execEncode payload t s
  | .decode => Sys2Proof.Machine.execDecode s
  | .setThrottle c value => Sys2Proof.Machine.execSetThrottle c value s
  | .sendCommand c command rep => Sys2Proof.Machine.execSendCommand c command rep s
  | .start => Sys2Proof.Machine.execStart s
  | .complete => Sys2Proof.Machine.execComplete s
  | .readChannel c => Sys2Proof.Machine.execReadChannel c s
  | .readBus => Sys2Proof.Machine.execReadBus s

end Sys2Proof.Machine
end

