-- ==== Sys2Proof/Machine/Fetch.lean ====
section
/-!
DEFINITION. How an operation arrives. The block fetches nothing (spec 10_state.md R34): the host
presents one operation word at a time with its ports (spec 20_memory.md R64). This file admits a
presented word or refuses it (spec 60_exceptions.md R245), and holds the pseudo-operations of spec
30_encoding.md R96.
-/

namespace Sys2Proof.Machine

/-- The refusal of a word the decoder refuses (R94, R245). -/
def refusalOf : DecodeRefusal → Refusal
  | .illegalOp => .illegalOp
  | .commandRange => .commandRange

/-- Admit the word `w` presented with the ports `p`, or name its refusal (R245). Where several
refusals apply, this order names one (log entry 10). -/
def admission (w : Word) (p : Ports) (s : State) : Except Refusal Instr :=
  if s.constructed then
    match decode w with
    | .error r => .error (refusalOf r)
    | .ok i => if p.now < s.ports.now then .error .timeReversal else .ok i
  else .error .beforeReset

/-- The state an admitted operation runs in: its ports stand at the block, and the inputs after it
are still to come (R64). -/
def presented (p : Ports) (rest : List Input) (s : State) : State :=
  { s with ports := p, inputs := rest }

/-- One input: an operation word is admitted and run, a reset applies R270, a teardown ends the
run (R270). -/
def consume (x : Input) (rest : List Input) (s : State) : Host.Outcome State Fault Refusal :=
  match x with
  | .op w p =>
    match admission w p s with
    | .error r => .refused r
    | .ok i => exec i (presented p rest s)
  | .reset n speedKhz t0 => resetBus n speedKhz t0 { s with inputs := rest }
  | .teardown => .fault .tornDown

/-- `TICK @ now=a, ready=r, rx=w, now2=b` expands to START then COMPLETE (R96). -/
def tick (a : Nat) (r : Bool) (w : Word) (b : Nat) : List Input :=
  [.op (encode .start) ⟨a, r, 0, false⟩, .op (encode .complete) ⟨b, false, w, true⟩]

/-- `DISARM ch` expands to `SET_THROTTLE ch, 0` (R96). -/
def disarm (c : BitVec 4) : Instr := .setThrottle c 0

end Sys2Proof.Machine
end

