-- ==== Sys2Proof/Machine/Step.lean ====
section
/-! DEFINITION. One step: the next input, if there is one (spec 20_memory.md R64, R69). -/

namespace Sys2Proof.Machine

/-- One step consumes the next input. With no input left the block has nothing to do (R34). -/
def step (s : State) : Host.Outcome State Fault Refusal :=
  match s.inputs with
  | [] => .fault .noOperation
  | x :: rest => consume x rest s

/-- `s` with the opcode table's word presented as the next operation, under the port values that
stand at the block (log entry 19). -/
def State.withFetchWord (s : State) (nbits w : Nat) : State :=
  { s with inputs := .op (tableWord nbits w) s.ports :: s.inputs }

end Sys2Proof.Machine
end

