-- ==== Sys2Proof/Safety.lean ====
section
/-!
DEFINITION. What the claims are stated in: which parameters are legal, the invariants of spec
10_state.md R40 as predicates of a state, and the vocabulary of runs (which operation comes next,
how many STARTs address a channel, what disturbs a channel).
-/

namespace Sys2Proof

/-- Legal parameters: `MAX_CHANNELS` is `1..16` (R7), the two command numbers are command numbers
(R97) and differ (R212), and `GCR_MAP` is a bijection from the valid codewords (R87). -/
structure Config.Legal (cfg : Config) : Prop where
  channels : 1 ≤ cfg.maxChannels ∧ cfg.maxChannels ≤ 16
  save_le : cfg.cmdSaveSettings.toNat ≤ cmdMax
  info_le : cfg.cmdInfoRequest.toNat ≤ cmdMax
  differ : cfg.cmdSaveSettings ≠ cfg.cmdInfoRequest
  bijection : cfg.gcrMap.Perm Machine.validCodewords

end Sys2Proof

namespace Sys2Proof.Machine

/-- The invariants of one channel record (R40), at a time `now` no earlier than the latest
operation. -/
structure Channel.Sound (now : Nat) (c : Channel) : Prop where
  /-- (I2): a repeating channel holds a command frame. -/
  repeats_command : c.repeating = true → isCommandFrame c.frame = true
  /-- (I3): `last_throttle_frame` is a throttle frame. -/
  last_is_throttle : isThrottleFrame c.lastThrottleFrame = true
  /-- (I4): `frame` carries a valid checksum. -/
  checksum : checksumConsistent c.frame = true
  /-- (I6): `frame` is `last_throttle_frame` or a command frame. -/
  frame_kind : c.frame = c.lastThrottleFrame ∨ isCommandFrame c.frame = true
  /-- From (I5): a deadline is at most the longest delay after an operation's `now`. -/
  deadline_near : c.delayDeadline.all (fun d => decide (d ≤ now + tSaveDelay)) = true

/-- The invariants of a bus that has been reset (R26, R27, R29, R31, R40, R283). -/
structure State.Running (s : State) : Prop where
  n_pos : 1 ≤ s.bus.n
  n_le : s.bus.n ≤ s.config.maxChannels
  /-- Exactly `N` records (R20). -/
  records : s.ch.length = s.bus.n
  /-- (I1). -/
  pointer : s.bus.currentChannel < s.bus.n
  select_lt : s.bus.txSelect < s.bus.n
  /-- In AWAIT_RX the transport addresses the addressed channel (R31). -/
  select_follows : s.bus.phase = .awaitRx → s.bus.txSelect = s.bus.currentChannel
  /-- `bit_period_cycles` is that of a legal speed (R29). -/
  period : 1 ≤ s.bus.bitPeriodCycles.toNat ∧ s.bus.bitPeriodCycles.toNat ≤ 65535
  command_past : s.bus.lastCommandTime ≤ s.ports.now
  start_past : s.startTime ≤ s.ports.now
  channels : ∀ c ∈ s.ch, c.Sound s.ports.now

/-- The invariant of the machine: the parameters are legal and, once reset, the bus runs soundly.
Before the first reset the registers mean nothing (R270). -/
structure State.Inv (s : State) : Prop where
  legal : s.config.Legal
  running : s.constructed = true → s.Running

/-! ### The rows of R245 -/

/-- Whether the row of R245's table that is named `r` holds of `s` and its next input. The row
BadConfig is about a reset, the five others about an operation. Several rows may hold of one
operation. That a reset's `t0` counts as the previous operation's `now` is log entry 9. -/
def refusalRow (s : State) (r : Refusal) : Prop :=
  match s.inputs with
  | .op w p :: _ =>
    (r = .illegalOp ∧ ∀ row ∈ opRows, w &&& row.mask ≠ row.bits) ∨
    (r = .commandRange ∧ w &&& 0xF000F800 = 0x40000000 ∧ 47 < (immField w).toNat) ∨
    (r = .phaseOrder ∧
      (decode w = .ok .start ∧ s.bus.phase = .awaitRx ∨
        decode w = .ok .complete ∧ s.bus.phase = .idle)) ∨
    (r = .timeReversal ∧ p.now < s.ports.now) ∨
    (r = .beforeReset ∧ s.constructed = false)
  | .reset n speedKhz _ :: _ =>
    r = .badConfig ∧ (n = 0 ∨ s.config.maxChannels < n ∨ speedKhz = 0 ∨ 65535 < speedKhz)
  | .teardown :: _ => False
  | [] => False

/-! ### The vocabulary of runs -/

/-- The operation the next input carries, if it carries one. -/
def nextOp (s : State) : Option Instr :=
  match s.inputs with
  | .op w _ :: _ => (decode w).toOption
  | _ => none

/-- The `now` of the next operation (the latest `now` where the next input is no operation). -/
def nextNow (s : State) : Nat :=
  match s.inputs with
  | .op _ p :: _ => p.now
  | _ => s.ports.now

/-- Whether an input is a START. -/
def Input.isStart : Input → Bool
  | .op w _ => (decode w).toOption == some .start
  | .reset _ _ _ => false
  | .teardown => false

/-- Whether an input is a reset. -/
def Input.isReset : Input → Bool
  | .op _ _ => false
  | .reset _ _ _ => true
  | .teardown => false

/-- The channel a START in the state `s` addresses (R171). -/
def addressedByStart (s : State) : Nat := (advance s).bus.currentChannel

/-- Whether the next input is a SET_THROTTLE or SEND_COMMAND on an in-range channel. -/
def hostCallNext (s : State) : Bool :=
  match nextOp s with
  | some (.setThrottle c _) => inRange c s
  | some (.sendCommand c _ _) => inRange c s
  | _ => false

/-- Whether the next input is a COMPLETE whose `now` makes the failsafe due (R180). -/
def failsafeNext (s : State) : Bool :=
  nextOp s == some .complete && failsafeDue (nextNow s) s.bus.lastCommandTime

/-- Whether the next input is a reset. -/
def resetNext (s : State) : Bool := (s.inputs.head?.map Input.isReset).getD false

/-- Whether the next input replaces channel `c`'s repeat and delay: a SET_THROTTLE or SEND_COMMAND
on it, a failsafe, or a reset (R183, R184). -/
def disturbs (c : Nat) (s : State) : Bool :=
  (match nextOp s with
    | some (.setThrottle k _) => k.toNat == c
    | some (.sendCommand k _ _) => k.toNat == c
    | _ => false) || failsafeNext s || resetNext s

/-- No input of the next `k` steps satisfies `bad`, in the state it meets. -/
def freeOf (bad : State → Bool) : Nat → State → Bool
  | 0, _ => true
  | k + 1, s =>
    !bad s && match step s with
      | .next s' => freeOf bad k s'
      | .fault _ => true
      | .refused _ => true

/-- How many of the next `k` steps are STARTs that address channel `c`. -/
def startsOn (c : Nat) : Nat → State → Nat
  | 0, _ => 0
  | k + 1, s =>
    (if nextOp s = some .start ∧ addressedByStart s = c then 1 else 0) +
      match step s with
      | .next s' => startsOn c k s'
      | .fault _ => 0
      | .refused _ => 0

end Sys2Proof.Machine
end

