-- ==== Sys2Proof/Certificates/Slice0/Obligations.lean ====
section
/-!
DEFINITION. The statements for the provers. Each docstring names the rules of spec/ it formalises;
a clause that rests on the model's own choice names the log entry.
-/

open Sys2Proof Sys2Proof.Machine

/-! ## Encoding -/

/-- Words written out from the patterns of R92 decode to the operations they stand for. -/
def Obligations.TableWordsDecodeToTheirOperations : Prop :=
  decode 0b00010000000000000000_0_10000010110#32 = .ok (.encode 1046 0) ∧
  decode 0b00010000000000000000_1_10000010110#32 = .ok (.encode 1046 1) ∧
  decode 0b00100000000000000000000000000000#32 = .ok .decode ∧
  decode 0b0011_0001_00000000_00000_01111101000#32 = .ok (.setThrottle 1 1000) ∧
  decode 0b0100_0001_00000110_00000_00000001100#32 = .ok (.sendCommand 1 12 6) ∧
  decode 0b01010000000000000000000000000000#32 = .ok .start ∧
  decode 0b01100000000000000000000000000000#32 = .ok .complete ∧
  decode 0b0111_1001_000000000000000000000000#32 = .ok (.readChannel 9) ∧
  decode 0b10000000000000000000000000000000#32 = .ok .readBus

/-- R92, R93: the word of every well-formed operation decodes to it, with every operand. -/
def Obligations.DecodeInvertsEncode : Prop :=
  ∀ i : Instr, i.wellFormed = true → decode (encode i) = .ok i

/-- R92, R93: a word has at most one meaning, and that meaning's word is the word itself: no bit of
a word that decodes is ignored. -/
def Obligations.EncodeInvertsDecode : Prop :=
  ∀ (w : Word) (i : Instr), decode w = .ok i → i.wellFormed = true ∧ encode i = w

/-- R94, R245: a word is illegal exactly when its opcode is reserved or a must-be-zero bit is set; a
SEND_COMMAND word whose command number is above 47 is out of range; and a step on such a word is
refused under that name, with no next state. That the word's own refusal is named also where its
`now` is before the latest one, so that TimeReversal (R283) applies too, is the model's choice (log
entry 10). -/
def Obligations.WordsOutsideTheTableAreRefused : Prop :=
  ∀ w : Word,
    let opc := (w.extractLsb' 28 4).toNat
    let illegal : Prop :=
      opc = 0 ∨ 9 ≤ opc ∨
      (opc = 1 ∧ w &&& 0x0FFFF000 ≠ 0) ∨ (opc = 2 ∧ w &&& 0x0FFFFFFF ≠ 0) ∨
      (opc = 3 ∧ w &&& 0x00FFF800 ≠ 0) ∨ (opc = 4 ∧ w &&& 0x0000F800 ≠ 0) ∨
      (opc = 5 ∧ w &&& 0x0FFFFFFF ≠ 0) ∨ (opc = 6 ∧ w &&& 0x0FFFFFFF ≠ 0) ∨
      (opc = 7 ∧ w &&& 0x00FFFFFF ≠ 0) ∨ (opc = 8 ∧ w &&& 0x0FFFFFFF ≠ 0)
    let outOfRange : Prop :=
      opc = 4 ∧ w &&& 0x0000F800 = 0 ∧ 47 < (w.extractLsb' 0 11).toNat
    (decode w = .error .illegalOp ↔ illegal) ∧
    (decode w = .error .commandRange ↔ outOfRange) ∧
    ∀ (s : State) (p : Ports) (rest : List Input),
      s.inputs = .op w p :: rest → s.constructed = true →
      (illegal → step s = .refused .illegalOp) ∧ (outOfRange → step s = .refused .commandRange)

/-! ## The frame encoder -/

/-- R120, R121: ENCODE returns the frame whose bits 15:4 are `{payload, t}` and whose bits 3:0 are
the complement of the XOR of the three nibbles above them, and changes nothing else. -/
def Obligations.EncodeReturnsTheFrameAlone : Prop :=
  ∀ (payload : BitVec 11) (t : BitVec 1) (s : State),
    let v : BitVec 12 := payload ++ t
    let crc : BitVec 4 := ~~~(v.extractLsb' 0 4 ^^^ v.extractLsb' 4 4 ^^^ v.extractLsb' 8 4)
    exec (.encode payload t) s = .next { s with results := s.results ++ [.frame (v ++ crc)] }

/-- R122: every encoded frame is checksum-consistent, each 12-bit value has exactly one consistent
frame, and the encoder is injective. -/
def Obligations.EncodedFramesAreTheConsistentOnes : Prop :=
  (∀ (p : BitVec 11) (t : BitVec 1),
    (encodeFrame p t).extractLsb' 0 4 = crc4 ((encodeFrame p t).extractLsb' 4 12)) ∧
  (∀ value : BitVec 12, ∃ f : Frame,
    (f.extractLsb' 0 4 = crc4 value ∧ f.extractLsb' 4 12 = value) ∧
    ∀ g : Frame, g.extractLsb' 0 4 = crc4 value → g.extractLsb' 4 12 = value → g = f) ∧
  (∀ (p p' : BitVec 11) (t t' : BitVec 1), encodeFrame p t = encodeFrame p' t' → p = p' ∧ t = t')

/-- R123, R81: a frame gives its operands back, so the model's tests of a frame's kind say what R81
says: a throttle frame is `encode(v, 0)` for some `v`, a command frame is `encode(c, 1)` for some
`c` in `[0, 47]`. -/
def Obligations.FramesGiveTheirOperandsBack : Prop :=
  (∀ (p : BitVec 11) (t : BitVec 1),
    (encodeFrame p t).extractLsb' 5 11 = p ∧ (encodeFrame p t).extractLsb' 4 1 = t) ∧
  (∀ f : Frame, isThrottleFrame f = true ↔ ∃ v : BitVec 11, f = encodeFrame v 0) ∧
  (∀ f : Frame, isCommandFrame f = true ↔ ∃ c : BitVec 11, c.toNat ≤ 47 ∧ f = encodeFrame c 1)

/-- R82: the wire word is the bitwise complement of the frame. -/
def Obligations.WireWordIsTheComplement : Prop :=
  ∀ (f : Frame) (i : Nat), i < 16 → (wireWord f).getLsbD i = !f.getLsbD i

/-! ## The telemetry decoder -/

/-- R140: DECODE returns the decode of the presented word and changes nothing else, whatever the
transport says (R64). -/
def Obligations.DecodeReturnsTheResultAlone : Prop :=
  ∀ s : State, exec .decode s = .next { s with
    results := s.results ++ [.decoded (decodeTelemetry s.config.gcrMap s.ports.rxWord)] }

/-- R141: the zero word, and no other, is Timeout, under every map. -/
def Obligations.OnlyTheZeroWordIsTimeout : Prop :=
  ∀ (gcrMap : List (BitVec 5)) (raw : Word),
    decodeTelemetry gcrMap 0 = ⟨.timeout, .erpm, 0⟩ ∧
    ((decodeTelemetry gcrMap raw).status = .timeout ↔ raw = 0)

/-- R143, R86, R242: a nonzero word is BadGCR exactly when one of the four groups of
`raw ^ (raw >> 1)` is one of the sixteen invalid values, under every map and whatever its checksum. -/
def Obligations.BadGcrIsAnInvalidGroup : Prop :=
  ∀ (gcrMap : List (BitVec 5)) (raw : Word), raw ≠ 0 →
    let invalid : List (BitVec 5) :=
      [0x00, 0x01, 0x02, 0x03, 0x04, 0x05, 0x06, 0x07, 0x08, 0x0C, 0x10, 0x11, 0x14, 0x18, 0x1C, 0x1F]
    let group (k : Nat) : BitVec 5 := (raw ^^^ (raw >>> 1)).extractLsb' k 5
    ((decodeTelemetry gcrMap raw).status = .badGcr ↔
      group 15 ∈ invalid ∨ group 10 ∈ invalid ∨ group 5 ∈ invalid ∨ group 0 ∈ invalid)

/-- R83: apart from the zero test, only `raw[20:0]` matter, under every map. -/
def Obligations.HighRawBitsAreIgnored : Prop :=
  ∀ (gcrMap : List (BitVec 5)) (raw raw' : Word), raw ≠ 0 → raw' ≠ 0 →
    raw.extractLsb' 0 21 = raw'.extractLsb' 0 21 →
    decodeTelemetry gcrMap raw = decodeTelemetry gcrMap raw'

/-- R87: under every legal map, each nibble is the image of exactly one valid codeword. -/
def Obligations.GcrMapIsABijection : Prop :=
  ∀ cfg : Config, cfg.Legal → ∀ x : BitVec 4,
    ∃ g : BitVec 5, (validCodeword g = true ∧ gcrNibble cfg.gcrMap g = x) ∧
      ∀ g' : BitVec 5, validCodeword g' = true → gcrNibble cfg.gcrMap g' = x → g' = g

/-- R144, R145: under every legal map, a nonzero word whose four groups are the codewords of the
nibbles `x3 x2 x1 x0` is BadCRC where `x0` is not the complement of the XOR of the others, and is
otherwise classified as the edt word `{x3, x2, x1, x0}`. -/
def Obligations.ValidGroupsRebuildTheEdtWord : Prop :=
  ∀ (cfg : Config) (raw : Word) (x3 x2 x1 x0 : BitVec 4), cfg.Legal → raw ≠ 0 →
    cfg.gcrMap[x3.toNat]? = some ((raw ^^^ (raw >>> 1)).extractLsb' 15 5) →
    cfg.gcrMap[x2.toNat]? = some ((raw ^^^ (raw >>> 1)).extractLsb' 10 5) →
    cfg.gcrMap[x1.toNat]? = some ((raw ^^^ (raw >>> 1)).extractLsb' 5 5) →
    cfg.gcrMap[x0.toNat]? = some ((raw ^^^ (raw >>> 1)).extractLsb' 0 5) →
    (x0 ≠ ~~~(x1 ^^^ x2 ^^^ x3) → decodeTelemetry cfg.gcrMap raw = ⟨.badCrc, .erpm, 0⟩) ∧
    (x0 = ~~~(x1 ^^^ x2 ^^^ x3) →
      decodeTelemetry cfg.gcrMap raw = classify (x3 ++ x2 ++ x1 ++ x0))

/-- R147, R89: an edt word whose top nibble is even and not zero reports its kind, with the value
`m = edt[11:4]`, or `m / 4` for Voltage. -/
def Obligations.ExtendedWordsReportTheirKind : Prop :=
  ∀ edt : Frame,
    let top := (edt.extractLsb' 12 4).toNat
    let m := (edt.extractLsb' 4 8).toNat
    (top = 0x2 → classify edt = ⟨.ok, .temperature, BitVec.ofNat 32 m⟩) ∧
    (top = 0x4 → classify edt = ⟨.ok, .voltage, BitVec.ofNat 32 (m / 4)⟩) ∧
    (top = 0x6 → classify edt = ⟨.ok, .current, BitVec.ofNat 32 m⟩) ∧
    (top = 0x8 → classify edt = ⟨.ok, .debug1, BitVec.ofNat 32 m⟩) ∧
    (top = 0xA → classify edt = ⟨.ok, .debug2, BitVec.ofNat 32 m⟩) ∧
    (top = 0xC → classify edt = ⟨.ok, .stress, BitVec.ofNat 32 m⟩) ∧
    (top = 0xE → classify edt = ⟨.ok, .status, BitVec.ofNat 32 m⟩)

/-- R149, R150: an edt word whose top nibble is zero or odd is legacy eRPM. With
`period = edt[12:4] * 2 ^ edt[15:13]`, the value is 0 for the periods 0xFF80 and 0 and otherwise
`60_000_000 / period`. The period 0xFF80 is reached only by `edt[15:4] = 0xFFF`, and the period 0
only by `edt[15:4] = 0x000`. -/
def Obligations.LegacyWordsReportErpm : Prop :=
  ∀ edt : Frame,
    let top := (edt.extractLsb' 12 4).toNat
    let period := (edt.extractLsb' 4 9).toNat * 2 ^ (edt.extractLsb' 13 3).toNat
    top = 0 ∨ top % 2 = 1 →
    (classify edt).status = .ok ∧ (classify edt).kind = .erpm ∧
    (period = 0xFF80 → (classify edt).value = 0) ∧
    (period = 0 → (classify edt).value = 0) ∧
    (period ≠ 0xFF80 → period ≠ 0 → (classify edt).value.toNat = 60000000 / period) ∧
    (period = 0xFF80 ↔ edt.extractLsb' 4 12 = 0xFFF) ∧
    (period = 0 ↔ edt.extractLsb' 4 12 = 0x000)

/-- R148: under the adopted policy no word is BadType, whatever the map. -/
def Obligations.NoWordIsBadType : Prop :=
  ∀ (gcrMap : List (BitVec 5)) (raw : Word), (decodeTelemetry gcrMap raw).status ≠ .badType

/-- R90: the numeric codes of status and kind, and a failed decode has kind 0 and value 0. -/
def Obligations.ResultCodesAreTheTables : Prop :=
  [Status.ok, .timeout, .badGcr, .badCrc, .badType].map Status.code = [0, 1, 2, 3, 4] ∧
  [Kind.erpm, .voltage, .current, .temperature, .status, .debug1, .debug2, .stress].map Kind.code
    = [0, 1, 2, 3, 4, 5, 6, 7] ∧
  ∀ (gcrMap : List (BitVec 5)) (raw : Word), (decodeTelemetry gcrMap raw).status ≠ .ok →
    (decodeTelemetry gcrMap raw).kind.code = 0 ∧ (decodeTelemetry gcrMap raw).value = 0

/-- R151: every value returned with status OK is, as an `i32`, between 0 and 60_000_000, and the
edt word 0x001E, of period 1, reaches the largest. -/
def Obligations.TelemetryValuesFitAnI32 : Prop :=
  (∀ (gcrMap : List (BitVec 5)) (raw : Word), (decodeTelemetry gcrMap raw).status = .ok →
    0 ≤ (decodeTelemetry gcrMap raw).value.toInt ∧
    (decodeTelemetry gcrMap raw).value.toInt ≤ 60000000) ∧
  classify 0x001E = ⟨.ok, .erpm, 60000000⟩

/-! ## Host commands -/

/-- R210 (and R216 for it): SET_THROTTLE on an existing channel writes the throttle frame to both
frame registers, clears the repeat counter and the delay, and writes `last_command_time`; nothing
else changes. On a channel at or above `N` nothing changes at all, `last_command_time` included, and
no event is emitted. -/
def Obligations.SetThrottleWritesItsChannel : Prop :=
  ∀ (c : BitVec 4) (value : BitVec 11) (s : State),
    (∀ old : Channel, c.toNat < s.bus.n → s.ch[c.toNat]? = some old →
      exec (.setThrottle c value) s = .next { s with
        ch := s.ch.set c.toNat { old with
          frame := encodeFrame value 0
          lastThrottleFrame := encodeFrame value 0
          repeatCounter := 0
          delayDeadline := none }
        bus := { s.bus with lastCommandTime := s.ports.now } }) ∧
    (s.bus.n ≤ c.toNat → exec (.setThrottle c value) s = .next s)

/-- R211, R212 (and R216 for it): SEND_COMMAND on an existing channel writes the command frame, the
repeat counter and the delay of its command number, and `last_command_time`; nothing else changes,
and `last_throttle_frame` in particular. On a channel at or above `N` nothing changes at all, and no
event is emitted. The two delay-bearing command numbers differ (R212). -/
def Obligations.SendCommandLoadsItsChannel : Prop :=
  ∀ (c : BitVec 4) (command : BitVec 11) (rep : BitVec 8) (s : State),
    command.toNat ≤ 47 → s.config.cmdSaveSettings ≠ s.config.cmdInfoRequest →
    (∀ old : Channel, c.toNat < s.bus.n → s.ch[c.toNat]? = some old →
      ∃ deadline : Option Nat,
        (command = s.config.cmdSaveSettings → deadline = some (s.ports.now + 35000)) ∧
        (command = s.config.cmdInfoRequest → deadline = some (s.ports.now + 12000)) ∧
        (command ≠ s.config.cmdSaveSettings → command ≠ s.config.cmdInfoRequest →
          deadline = none) ∧
        exec (.sendCommand c command rep) s = .next { s with
          ch := s.ch.set c.toNat { old with
            frame := encodeFrame command 1
            repeatCounter := rep
            delayDeadline := deadline }
          bus := { s.bus with lastCommandTime := s.ports.now } }) ∧
    (s.bus.n ≤ c.toNat → exec (.sendCommand c command rep) s = .next s)

/-- R245 (CommandRange): SEND_COMMAND with a command number above 47 is refused, whatever the
channel and the state. -/
def Obligations.CommandsAbove47AreRefused : Prop :=
  ∀ (c : BitVec 4) (command : BitVec 11) (rep : BitVec 8) (s : State), 47 < command.toNat →
    exec (.sendCommand c command rep) s = .refused .commandRange

/-- R213: a host call on an existing channel replaces that channel's frame, repeat counter and
delay whatever they held before, touches no other channel's record, and updates the bus-wide
`last_command_time`. -/
def Obligations.HostCallsOverrideOnlyTheirChannel : Prop :=
  ∀ (i : Instr) (c : BitVec 4) (s : State) (old : Channel) (frame : Frame) (rep : BitVec 8)
    (delay : Option Nat),
    (∃ value, i = .setThrottle c value) ∨
      (∃ command r, i = .sendCommand c command r ∧ command.toNat ≤ 47) →
    c.toNat < s.bus.n → s.ch[c.toNat]? = some old →
    ∃ t, exec i s = .next t ∧
      exec i { s with
        ch := s.ch.set c.toNat
          { old with frame := frame, repeatCounter := rep, delayDeadline := delay } } = .next t ∧
      (∀ j, j ≠ c.toNat → t.ch[j]? = s.ch[j]?) ∧
      t.bus.lastCommandTime = s.ports.now

/-- R214, R73: READ_CHANNEL returns the record of a channel below `N` and none at or above it, and
changes nothing else. -/
def Obligations.ReadChannelReturnsTheRecord : Prop :=
  ∀ (c : BitVec 4) (s : State), s.ch.length = s.bus.n →
    ∃ r : Option Channel,
      exec (.readChannel c) s = .next { s with results := s.results ++ [.channel r] } ∧
      (c.toNat < s.bus.n → ∃ rec, s.ch[c.toNat]? = some rec ∧ r = some rec) ∧
      (s.bus.n ≤ c.toNat → r = none)

/-- R215, R73: READ_BUS returns the six bus registers and changes nothing else. -/
def Obligations.ReadBusReturnsTheRegisters : Prop :=
  ∀ s : State, exec .readBus s = .next { s with results := s.results ++ [.bus
    ⟨s.bus.n, s.bus.currentChannel, s.bus.lastCommandTime, s.bus.bitPeriodCycles, s.bus.phase,
      s.bus.txSelect⟩] }

/-- R63: READ_CHANNEL and READ_BUS may be repeated with the same result. -/
def Obligations.ReadsMayBeRepeated : Prop :=
  ∀ (i : Instr) (s : State), (∃ c, i = .readChannel c) ∨ i = .readBus →
    ∃ v, exec i s = .next { s with results := s.results ++ [v] } ∧
      exec i { s with results := s.results ++ [v] } =
        .next { s with results := s.results ++ [v, v] }

/-! ## START -/

/-- R171: with `N > 1` START moves the pointer to `(current_channel + 1) mod N`, writes `tx_select`
with it and emits one `Select` of it, first; with `N = 1` it moves nothing and emits no `Select`. -/
def Obligations.StartAdvancesTheRing : Prop :=
  ∀ s : State, s.bus.phase = .idle → s.ch.length = s.bus.n → s.bus.currentChannel < s.bus.n →
    ∃ t es, exec .start s = .next t ∧ (∀ c, Event.select c ∉ es) ∧
      (1 < s.bus.n →
        t.bus.currentChannel = (s.bus.currentChannel + 1) % s.bus.n ∧
        t.bus.txSelect = t.bus.currentChannel ∧
        t.events = s.events ++ [.select t.bus.currentChannel] ++ es) ∧
      (s.bus.n = 1 →
        t.bus.currentChannel = s.bus.currentChannel ∧ t.bus.txSelect = s.bus.txSelect ∧
        t.events = s.events ++ es)

/-- R172: START counts the addressed channel's repeat counter down, reverts its frame to
`last_throttle_frame` on the transition from 1 to 0 only, and leaves a counter of 0 and its frame
alone; no other channel's record changes. -/
def Obligations.StartCountsTheRepeatDown : Prop :=
  ∀ s : State, s.bus.phase = .idle → s.ch.length = s.bus.n → s.bus.currentChannel < s.bus.n →
    ∃ t c c', exec .start s = .next t ∧
      s.ch[t.bus.currentChannel]? = some c ∧ t.ch[t.bus.currentChannel]? = some c' ∧
      (c.repeatCounter = 0 → c'.repeatCounter = 0 ∧ c'.frame = c.frame) ∧
      (c.repeatCounter = 1 → c'.repeatCounter = 0 ∧ c'.frame = c.lastThrottleFrame) ∧
      (1 < c.repeatCounter.toNat →
        c'.repeatCounter.toNat = c.repeatCounter.toNat - 1 ∧ c'.frame = c.frame) ∧
      ∀ j, j ≠ t.bus.currentChannel → t.ch[j]? = s.ch[j]?

/-- R173: START clears the addressed channel's deadline when `now >= deadline` and keeps it
otherwise; no other channel's deadline changes. -/
def Obligations.StartExpiresTheDelay : Prop :=
  ∀ s : State, s.bus.phase = .idle → s.ch.length = s.bus.n → s.bus.currentChannel < s.bus.n →
    ∃ t c c', exec .start s = .next t ∧
      s.ch[t.bus.currentChannel]? = some c ∧ t.ch[t.bus.currentChannel]? = some c' ∧
      (c.delayDeadline = none → c'.delayDeadline = none) ∧
      (∀ d, c.delayDeadline = some d → d ≤ s.ports.now → c'.delayDeadline = none) ∧
      (∀ d, c.delayDeadline = some d → s.ports.now < d → c'.delayDeadline = some d) ∧
      ∀ j, j ≠ t.bus.currentChannel →
        (t.ch[j]?).map Channel.delayDeadline = (s.ch[j]?).map Channel.delayDeadline

/-- R174: after the repeat and delay steps START submits the channel's frame with
`bit_period_cycles`, exactly when the channel is not delaying and the transport is ready; `tx_frames`
counts the submission, and there is no other event but R171's `Select`. -/
def Obligations.StartSubmitsWhenReady : Prop :=
  ∀ s : State, s.bus.phase = .idle → s.ch.length = s.bus.n → s.bus.currentChannel < s.bus.n →
    ∃ t c c', exec .start s = .next t ∧
      s.ch[t.bus.currentChannel]? = some c ∧ t.ch[t.bus.currentChannel]? = some c' ∧
      (c'.delayDeadline = none → s.ports.txReady = true →
        t.events = s.events ++ (if 1 < s.bus.n then [.select t.bus.currentChannel] else []) ++
          [.submit c'.frame s.bus.bitPeriodCycles] ∧
        c'.txFrames = c.txFrames + 1) ∧
      (c'.delayDeadline ≠ none ∨ s.ports.txReady = false →
        t.events = s.events ++ (if 1 < s.bus.n then [.select t.bus.currentChannel] else []) ∧
        c'.txFrames = c.txFrames)

/-- R175 and START's frame (R37): START ends in AWAIT_RX whether or not it submitted, and writes no
register but those of R171 to R174: not `last_throttle_frame` or a receive counter of any channel,
not `N`, `last_command_time` or `bit_period_cycles`, nor the parameters, the result port or the
inputs. That it keeps its own `now` is the model's implied state (log entry 8). -/
def Obligations.StartEndsAwaitingTheAnswer : Prop :=
  ∀ s : State, s.bus.phase = .idle → s.ch.length = s.bus.n → s.bus.currentChannel < s.bus.n →
    ∃ t, exec .start s = .next t ∧ t.bus.phase = .awaitRx ∧ t.startTime = s.ports.now ∧
      t.bus.n = s.bus.n ∧ t.bus.lastCommandTime = s.bus.lastCommandTime ∧
      t.bus.bitPeriodCycles = s.bus.bitPeriodCycles ∧ t.ch.length = s.ch.length ∧
      t.constructed = s.constructed ∧ t.ports = s.ports ∧ t.results = s.results ∧
      t.config = s.config ∧ t.inputs = s.inputs ∧
      ∀ (j : Nat) (c c' : Channel), s.ch[j]? = some c → t.ch[j]? = some c' →
        c'.lastThrottleFrame = c.lastThrottleFrame ∧ c'.rxFrames = c.rxFrames ∧
        c'.rxTimeout = c.rxTimeout ∧ c'.rxBadGcr = c.rxBadGcr ∧ c'.rxBadCrc = c.rxBadCrc ∧
        c'.rxBadType = c.rxBadType

/-- R277: a command issued with `repeat_count = 1` is never sent: the next START on its channel
reverts the frame to `last_throttle_frame` before anything is submitted, so what it submits, if it
submits, is that frame. -/
def Obligations.OneShotCommandsAreNeverSent : Prop :=
  ∀ (c : BitVec 4) (command : BitVec 11) (s : State) (old : Channel), command.toNat ≤ 47 →
    s.bus.phase = .idle → s.ch.length = s.bus.n → s.bus.currentChannel < s.bus.n →
    s.ch[c.toNat]? = some old → (s.bus.currentChannel + 1) % s.bus.n = c.toNat →
    ∃ s' t, exec (.sendCommand c command 1) s = .next s' ∧ exec .start s' = .next t ∧
      (∃ r, t.ch[c.toNat]? = some r ∧ r.frame = old.lastThrottleFrame ∧ r.repeatCounter = 0) ∧
      ∃ es, t.events = s.events ++ es ∧
        ∀ frame cycles, Event.submit frame cycles ∈ es → frame = old.lastThrottleFrame

/-! ## COMPLETE -/

/-- R178: COMPLETE increments exactly one of the addressed channel's five receive counters, the one
of the decode's status, modulo 2^32, so that their sum grows by 1; it increments no counter of
another channel, and `tx_frames` of none. That a presented word is the one decoded also after the
bound of R66 has run out, and not the word 0, is the model's choice (log entry 7). -/
def Obligations.CompleteCountsExactlyOnce : Prop :=
  ∀ s : State, s.bus.phase = .awaitRx → s.ch.length = s.bus.n →
    s.bus.currentChannel < s.bus.n → s.ports.rxPresented = true →
    let status := (decodeTelemetry s.config.gcrMap s.ports.rxWord).status
    ∃ t c c', exec .complete s = .next t ∧
      s.ch[s.bus.currentChannel]? = some c ∧ t.ch[s.bus.currentChannel]? = some c' ∧
      c'.rxFrames = c.rxFrames + (if status = .ok then 1 else 0) ∧
      c'.rxTimeout = c.rxTimeout + (if status = .timeout then 1 else 0) ∧
      c'.rxBadGcr = c.rxBadGcr + (if status = .badGcr then 1 else 0) ∧
      c'.rxBadCrc = c.rxBadCrc + (if status = .badCrc then 1 else 0) ∧
      c'.rxBadType = c.rxBadType + (if status = .badType then 1 else 0) ∧
      c'.rxFrames + c'.rxTimeout + c'.rxBadGcr + c'.rxBadCrc + c'.rxBadType =
        c.rxFrames + c.rxTimeout + c.rxBadGcr + c.rxBadCrc + c.rxBadType + 1 ∧
      ∀ (j : Nat) (d d' : Channel), s.ch[j]? = some d → t.ch[j]? = some d' →
        d'.txFrames = d.txFrames ∧
        (j ≠ s.bus.currentChannel →
          d'.rxFrames = d.rxFrames ∧ d'.rxTimeout = d.rxTimeout ∧ d'.rxBadGcr = d.rxBadGcr ∧
          d'.rxBadCrc = d.rxBadCrc ∧ d'.rxBadType = d.rxBadType)

/-- R179, R243: COMPLETE emits `Telemetry(current_channel, kind, value)` on a successful decode and
drops the event on every error. That a presented word is the one decoded also after the bound of R66
has run out, and not the word 0, is the model's choice (log entry 7). -/
def Obligations.CompleteDispatchesTelemetry : Prop :=
  ∀ s : State, s.bus.phase = .awaitRx → s.ch.length = s.bus.n →
    s.bus.currentChannel < s.bus.n → s.ports.rxPresented = true →
    let r := decodeTelemetry s.config.gcrMap s.ports.rxWord
    ∃ t, exec .complete s = .next t ∧
      (r.status = .ok →
        t.events = s.events ++ [.telemetry s.bus.currentChannel r.kind r.value]) ∧
      (r.status ≠ .ok → t.events = s.events)

/-- R180, R181, R246: COMPLETE's failsafe, whatever the decode's outcome. Where
`now > last_command_time + 500000` every channel's frames become 0x000F, its repeat counter 0 and
its deadline none, and `last_command_time` becomes `now`; otherwise none of these registers changes
on any channel. -/
def Obligations.CompleteAppliesTheFailsafe : Prop :=
  ∀ s : State, s.bus.phase = .awaitRx → s.ch.length = s.bus.n →
    s.bus.currentChannel < s.bus.n → s.ports.rxPresented = true →
    ∃ t, exec .complete s = .next t ∧ t.ch.length = s.ch.length ∧
      (s.bus.lastCommandTime + 500000 < s.ports.now →
        t.bus.lastCommandTime = s.ports.now ∧
        ∀ c ∈ t.ch, c.frame = 0x000F ∧ c.lastThrottleFrame = 0x000F ∧ c.repeatCounter = 0 ∧
          c.delayDeadline = none) ∧
      (s.ports.now ≤ s.bus.lastCommandTime + 500000 →
        t.bus.lastCommandTime = s.bus.lastCommandTime ∧
        ∀ (j : Nat) (c c' : Channel), s.ch[j]? = some c → t.ch[j]? = some c' →
          c'.frame = c.frame ∧ c'.lastThrottleFrame = c.lastThrottleFrame ∧
          c'.repeatCounter = c.repeatCounter ∧ c'.delayDeadline = c.delayDeadline)

/-- R176 and COMPLETE's frame (R37, R240): COMPLETE ends in IDLE, whatever the decode's outcome, and
writes no register but those of R178 to R181: not `N`, `current_channel`, `bit_period_cycles` or
`tx_select`, nor the parameters, the result port or the inputs. -/
def Obligations.CompleteEndsIdle : Prop :=
  ∀ s : State, s.bus.phase = .awaitRx → s.ch.length = s.bus.n →
    s.bus.currentChannel < s.bus.n → s.ports.rxPresented = true →
    ∃ t, exec .complete s = .next t ∧ t.bus.phase = .idle ∧ t.bus.n = s.bus.n ∧
      t.bus.currentChannel = s.bus.currentChannel ∧ t.bus.txSelect = s.bus.txSelect ∧
      t.bus.bitPeriodCycles = s.bus.bitPeriodCycles ∧ t.startTime = s.startTime ∧
      t.constructed = s.constructed ∧ t.ports = s.ports ∧ t.results = s.results ∧
      t.config = s.config ∧ t.inputs = s.inputs

/-- R66, R177, R280: until the transport presents the word, COMPLETE has no step: with no bound it
is stuck. With `RX_WAIT_BOUND = some d` it is stuck before `d` microseconds have passed since the
preceding START, and from then on proceeds as if the word 0 had been presented (that it does so at
exactly `d` is the model's choice, log entry 7). -/
def Obligations.CompleteWaitsForItsWord : Prop :=
  ∀ s : State, s.bus.phase = .awaitRx → s.ports.rxPresented = false →
    (s.config.rxWaitBound = none → exec .complete s = .fault .awaitingRxWord) ∧
    ∀ d, s.config.rxWaitBound = some d →
      (s.ports.now < s.startTime + d → exec .complete s = .fault .awaitingRxWord) ∧
      (s.startTime + d ≤ s.ports.now → s.ch.length = s.bus.n →
        s.bus.currentChannel < s.bus.n →
        ∃ t, exec .complete { s with ports :=
            { s.ports with rxWord := 0, rxPresented := true } } = .next t ∧
          exec .complete s = .next { t with ports := s.ports })

/-- R274: a START in AWAIT_RX and a COMPLETE in IDLE are refused as PhaseOrder. -/
def Obligations.OutOfPhaseOperationsAreRefused : Prop :=
  ∀ s : State,
    (s.bus.phase = .awaitRx → exec .start s = .refused .phaseOrder) ∧
    (s.bus.phase = .idle → exec .complete s = .refused .phaseOrder)

/-! ## Reset, admission and steps -/

/-- R38, R270, R271: a legal reset leaves every register at the value of R38's table, and emits no
event: the output event sequence is empty. That it keeps the parameters and the inputs still to come
and is admitted in either phase is read from R72, R270 and R272 (log entry 20). -/
def Obligations.ResetLeavesTheTabledRegisters : Prop :=
  ∀ (s : State) (n speedKhz : Nat) (t0 : Nat) (rest : List Input),
    s.inputs = .reset n speedKhz t0 :: rest → 1 ≤ n → n ≤ s.config.maxChannels →
    1 ≤ speedKhz → speedKhz ≤ 65535 →
    ∃ t, step s = .next t ∧
      t.ch = List.replicate n ⟨0x000F, 0x000F, 0, none, 0, 0, 0, 0, 0, 0⟩ ∧
      t.bus = ⟨n, n - 1, t0, BitVec.ofNat 32 (25 * speedKhz * 40 / 1000), .idle, n - 1⟩ ∧
      t.events = [] ∧ t.constructed = true ∧ t.config = s.config ∧ t.inputs = rest

/-- R270, R245 (BadConfig): a reset is refused exactly when its arguments are out of range. -/
def Obligations.BadResetsAreRefused : Prop :=
  ∀ (s : State) (n speedKhz : Nat) (t0 : Nat) (rest : List Input),
    s.inputs = .reset n speedKhz t0 :: rest →
    (step s = .refused .badConfig ↔
      n = 0 ∨ s.config.maxChannels < n ∨ speedKhz = 0 ∨ 65535 < speedKhz)

/-- R272: a reset keeps no state: two buses with the same parameters and the same inputs to come
are the same after it, whatever they held. That the result port's values are discarded too is the
model's choice (log entry 12). -/
def Obligations.ResetForgetsTheRun : Prop :=
  ∀ (s s' : State) (n speedKhz : Nat) (t0 : Nat) (rest : List Input),
    s.inputs = .reset n speedKhz t0 :: rest → s'.inputs = s.inputs → s'.config = s.config →
    step s' = step s

/-- R29: for every legal speed, `bit_period_cycles` after reset equals `SPEED_KHZ`, and no operation
changes it. -/
def Obligations.BitPeriodIsTheSpeed : Prop :=
  (∀ (cfg : Config) (n speedKhz : Nat) (t0 : Nat) (rest : List Input), speedKhz ≤ 65535 →
    (State.afterReset cfg n speedKhz t0 rest).bus.bitPeriodCycles.toNat = speedKhz) ∧
  ∀ (i : Instr) (s t : State), exec i s = .next t →
    t.bus.bitPeriodCycles = s.bus.bitPeriodCycles

/-- R270, R245 (BeforeReset): before the first reset every operation word is refused. That a word
of no row, or with a command above 47, is then refused under this name and not as IllegalOp or
CommandRange is the model's choice (log entry 10). -/
def Obligations.OperationsBeforeResetAreRefused : Prop :=
  ∀ (s : State) (w : Word) (p : Ports) (rest : List Input),
    s.inputs = .op w p :: rest → s.constructed = false → step s = .refused .beforeReset

/-- R283: an operation whose `now` is smaller than the `now` of the operation before it is refused
as TimeReversal (after a reset, smaller than its `t0`: the model's reading, log entry 9). That it is
named so also for a START in AWAIT_RX and a COMPLETE in IDLE, where PhaseOrder (R274) applies too, is
the model's choice (log entry 10). -/
def Obligations.TimeReversalIsRefused : Prop :=
  ∀ (s : State) (w : Word) (i : Instr) (p : Ports) (rest : List Input),
    s.inputs = .op w p :: rest → s.constructed = true → decode w = .ok i →
    p.now < s.ports.now → step s = .refused .timeReversal

/-- R64, R69: when the next input is an operation word that decodes to `i`, on a bus that has been
reset, with a `now` no smaller than the previous one, the step is `exec i` in the state where the
word's ports stand at the block and the inputs after it are still to come. -/
def Obligations.StepRunsTheDecodedOperation : Prop :=
  ∀ (s : State) (w : Word) (i : Instr) (p : Ports) (rest : List Input),
    s.inputs = .op w p :: rest → s.constructed = true → decode w = .ok i →
    s.ports.now ≤ p.now → step s = exec i { s with ports := p, inputs := rest }

/-- R245 (with R94, R270, R274 and R283): the name a step is refused under is a name of R245's
table, never another, and that row of the table holds of the state and its next input; and where any
row holds, the step is refused. Which of several rows that hold gives the name is the model's choice
(log entry 10), as is that a reset's `t0` counts as the previous `now` (log entry 9). -/
def Obligations.RefusalsAreTheTablesRows : Prop :=
  ∀ s : State,
    (∀ r : Refusal, step s = .refused r → refusalRow s r) ∧
    ∀ r : Refusal, refusalRow s r → ∃ r' : Refusal, step s = .refused r'

/-- R96: TICK expands to START then COMPLETE: where both are admitted, the two steps are the two
meanings, one after the other. -/
def Obligations.TickRunsStartThenComplete : Prop :=
  ∀ (s t : State) (a b : Nat) (ready : Bool) (raw : Word) (rest : List Input),
    s.inputs = tick a ready raw b ++ rest → s.constructed = true → s.ports.now ≤ a → a ≤ b →
    s.bus.phase = .idle → s.ch.length = s.bus.n → s.bus.currentChannel < s.bus.n →
    exec .start { s with
      ports := ⟨a, ready, 0, false⟩
      inputs := .op (encode .complete) ⟨b, false, raw, true⟩ :: rest } = .next t →
    ∃ t', exec .complete { t with ports := ⟨b, false, raw, true⟩, inputs := rest } = .next t' ∧
      Sys2Proof.core.run 2 s = .next t'

/-! ## Invariants and whole-machine rules -/

/-- R37: the register access table, for every operation that completes: who may write which
register. -/
def Obligations.RegisterAccessTable : Prop :=
  ∀ (i : Instr) (s t : State), exec i s = .next t →
    -- never written after reset
    t.bus.n = s.bus.n ∧ t.bus.bitPeriodCycles = s.bus.bitPeriodCycles ∧ t.config = s.config ∧
    t.constructed = s.constructed ∧ t.ch.length = s.ch.length ∧
    -- written by START alone
    (i ≠ .start → t.bus.currentChannel = s.bus.currentChannel ∧
      t.bus.txSelect = s.bus.txSelect) ∧
    -- written by START and COMPLETE alone
    (i ≠ .start → i ≠ .complete → t.bus.phase = s.bus.phase ∧ t.events = s.events) ∧
    -- written by SET_THROTTLE, SEND_COMMAND and COMPLETE alone
    ((∀ c v, i ≠ .setThrottle c v) → (∀ c cmd rep, i ≠ .sendCommand c cmd rep) →
      i ≠ .complete → t.bus.lastCommandTime = s.bus.lastCommandTime) ∧
    -- the operations that write no register
    (∀ p b c, i = .encode p b ∨ i = .decode ∨ i = .readChannel c ∨ i = .readBus →
      t.ch = s.ch ∧ t.bus = s.bus) ∧
    ∀ (j : Nat) (c c' : Channel), s.ch[j]? = some c → t.ch[j]? = some c' →
      -- START and COMPLETE count on the addressed channel alone
      (i ≠ .start ∨ j ≠ t.bus.currentChannel → c'.txFrames = c.txFrames) ∧
      (i ≠ .complete ∨ j ≠ t.bus.currentChannel →
        c'.rxFrames = c.rxFrames ∧ c'.rxTimeout = c.rxTimeout ∧ c'.rxBadGcr = c.rxBadGcr ∧
        c'.rxBadCrc = c.rxBadCrc ∧ c'.rxBadType = c.rxBadType) ∧
      -- SET_THROTTLE on the channel and the failsafe alone write last_throttle_frame
      ((∀ k v, i = .setThrottle k v → k.toNat ≠ j) → i ≠ .complete →
        c'.lastThrottleFrame = c.lastThrottleFrame) ∧
      -- host calls write their own channel, START the addressed one
      ((∀ k v, i = .setThrottle k v → k.toNat ≠ j) →
        (∀ k cmd rep, i = .sendCommand k cmd rep → k.toNat ≠ j) →
        (i = .start → j ≠ t.bus.currentChannel) → i ≠ .complete → c' = c)

/-- R40 (I5): a deadline appears on a channel only by a SEND_COMMAND on it with the save-settings or
the info-request command, and is that operation's `now` plus 35000 or 12000. -/
def Obligations.DeadlinesComeFromDelayCommands : Prop :=
  ∀ (i : Instr) (s t : State) (j : Nat) (c c' : Channel) (d : Nat), exec i s = .next t →
    s.ch[j]? = some c → t.ch[j]? = some c' → c'.delayDeadline = some d →
    c.delayDeadline ≠ some d →
    ∃ (k : BitVec 4) (command : BitVec 11) (rep : BitVec 8), i = .sendCommand k command rep ∧
      k.toNat = j ∧
      ((command = s.config.cmdSaveSettings ∧ d = s.ports.now + 35000) ∨
        (command = s.config.cmdInfoRequest ∧ d = s.ports.now + 12000))

/-- The invariant of R40 (with R26, R29, R31 and R283) holds after every legal reset, and of
`State.reset`, whose arguments are the model's choice (log entry 2). -/
def Obligations.InvariantHoldsAfterReset : Prop :=
  (∀ (cfg : Config) (n speedKhz : Nat) (t0 : Nat) (rest : List Input), cfg.Legal → 1 ≤ n →
    n ≤ cfg.maxChannels → 1 ≤ speedKhz → speedKhz ≤ 65535 →
    (State.afterReset cfg n speedKhz t0 rest).Inv) ∧
  State.reset.Inv

/-- R40: every step keeps the invariant: `current_channel < N`, a repeating channel holds a command
frame, `last_throttle_frame` is a throttle frame, every frame carries a valid checksum, every frame
is the last throttle frame or a command frame; and R20, R26, R27, R29, R31, R283. -/
def Obligations.StepKeepsTheInvariant : Prop :=
  ∀ s s' : State, s.Inv → step s = .next s' → s'.Inv

/-- R240, R66: the block raises no exception: from a state that meets the invariant the only fault
of an operation is COMPLETE's wait for its word. -/
def Obligations.OnlyTheReceiveWaitStops : Prop :=
  ∀ (i : Instr) (s : State) (f : Fault), s.Inv → s.constructed = true → exec i s = .fault f →
    i = .complete ∧ f = .awaitingRxWord ∧ s.ports.rxPresented = false

/-- R65: a step that is no reset only appends to the output event sequence and to the result
values, and appends at most one result. -/
def Obligations.OutputsOnlyGrow : Prop :=
  ∀ s s' : State, step s = .next s' → resetNext s = false →
    (∃ es, s'.events = s.events ++ es) ∧
    ∃ rs, s'.results = s.results ++ rs ∧ rs.length ≤ 1

/-- R182: in any run with no reset, from any state that meets the invariant, the pointer after `k`
steps is the old one plus the number of STARTs among them, modulo `N`; from a reset, the k-th START
addresses channel `(k - 1) mod N`. -/
def Obligations.RoundRobinIsFair : Prop :=
  (∀ (k : Nat) (s t : State), s.Inv → s.constructed = true →
    (s.inputs.take k).all (fun x => !x.isReset) = true → Sys2Proof.core.run k s = .next t →
    t.bus.n = s.bus.n ∧
    t.bus.currentChannel =
      (s.bus.currentChannel + ((s.inputs.take k).filter Input.isStart).length) % s.bus.n) ∧
  ∀ (cfg : Config) (n speedKhz : Nat) (t0 : Nat) (inputs : List Input) (k : Nat) (t : State),
    cfg.Legal → 1 ≤ n → n ≤ cfg.maxChannels → 1 ≤ speedKhz → speedKhz ≤ 65535 →
    (inputs.take k).all (fun x => !x.isReset) = true →
    1 ≤ ((inputs.take k).filter Input.isStart).length →
    Sys2Proof.core.run k (State.afterReset cfg n speedKhz t0 inputs) = .next t →
    t.bus.currentChannel = (((inputs.take k).filter Input.isStart).length - 1) % n

/-- R183: after a SEND_COMMAND with `repeat_count = n > 0` on an existing channel, in any run that
does not disturb the channel, the command frame is resident until `n` STARTs have addressed the
channel, with the counter counting them down, and from the n-th on the frame is the last throttle
frame, which is unchanged. -/
def Obligations.RepeatedCommandsStayForTheirCount : Prop :=
  ∀ (c : BitVec 4) (command : BitVec 11) (rep : BitVec 8) (s s₁ t : State) (old : Channel)
    (k : Nat), s.Inv → s.constructed = true → 0 < rep.toNat →
    c.toNat < s.bus.n → s.ch[c.toNat]? = some old →
    exec (.sendCommand c command rep) s = .next s₁ → freeOf (disturbs c.toNat) k s₁ = true →
    Sys2Proof.core.run k s₁ = .next t →
    ∃ r, t.ch[c.toNat]? = some r ∧ r.lastThrottleFrame = old.lastThrottleFrame ∧
      (startsOn c.toNat k s₁ < rep.toNat →
        r.frame = encodeFrame command 1 ∧
        r.repeatCounter.toNat = rep.toNat - startsOn c.toNat k s₁) ∧
      (rep.toNat ≤ startsOn c.toNat k s₁ →
        r.frame = old.lastThrottleFrame ∧ r.repeatCounter = 0)

/-- R279: after a SEND_COMMAND with `repeat_count = 0` on an existing channel, in any run that does
not disturb the channel, the command frame stays resident with the counter at 0, and a START that
addresses the channel while the transport is ready and no deadline is left submits it. -/
def Obligations.ZeroRepeatCommandsStayResident : Prop :=
  ∀ (c : BitVec 4) (command : BitVec 11) (s s₁ t : State) (old : Channel) (k : Nat),
    s.Inv → s.constructed = true → c.toNat < s.bus.n → s.ch[c.toNat]? = some old →
    exec (.sendCommand c command 0) s = .next s₁ → freeOf (disturbs c.toNat) k s₁ = true →
    Sys2Proof.core.run k s₁ = .next t →
    ∃ r, t.ch[c.toNat]? = some r ∧ r.frame = encodeFrame command 1 ∧ r.repeatCounter = 0 ∧
      r.lastThrottleFrame = old.lastThrottleFrame ∧
      ∀ (p : Ports) (rest : List Input), t.inputs = .op (encode .start) p :: rest →
        t.bus.phase = .idle → t.ports.now ≤ p.now → addressedByStart t = c.toNat →
        p.txReady = true → (∀ d, r.delayDeadline = some d → d ≤ p.now) →
        ∃ t' es, step t = .next t' ∧
          t'.events = t.events ++ es ++
            [.submit (encodeFrame command 1) t.bus.bitPeriodCycles]

/-- R184: after a SEND_COMMAND with a delay-bearing command on an existing channel, in any run that
does not disturb the channel and whose operations all have `now` before the deadline (35000 or 12000
microseconds after the command), nothing is submitted on the channel and the deadline stands. -/
def Obligations.DelayedChannelsStaySilent : Prop :=
  ∀ (c : BitVec 4) (command : BitVec 11) (rep : BitVec 8) (s s₁ t : State) (old : Channel)
    (k : Nat) (wait : Nat), s.Inv → s.constructed = true →
    (command = s.config.cmdSaveSettings ∧ wait = 35000) ∨
      (command = s.config.cmdInfoRequest ∧ wait = 12000) →
    c.toNat < s.bus.n → s.ch[c.toNat]? = some old →
    exec (.sendCommand c command rep) s = .next s₁ → freeOf (disturbs c.toNat) k s₁ = true →
    Sys2Proof.core.run k s₁ = .next t → t.ports.now < s.ports.now + wait →
    ∃ r, t.ch[c.toNat]? = some r ∧ r.txFrames = old.txFrames ∧
      r.delayDeadline = some (s.ports.now + wait)

/-- R185: where no host call on an in-range channel, no reset and no failsafe occurs in a run,
`last_command_time` stands; and the first COMPLETE after it whose `now` is more than 500000
microseconds later leaves every channel neutral, with no repeat and no delay. -/
def Obligations.IdleBusesAreNeutralised : Prop :=
  ∀ (k : Nat) (s t : State) (p : Ports) (rest : List Input), s.Inv → s.constructed = true →
    freeOf (fun x => hostCallNext x || resetNext x || failsafeNext x) k s = true →
    Sys2Proof.core.run k s = .next t →
    t.bus.lastCommandTime = s.bus.lastCommandTime ∧
    (t.inputs = .op (encode .complete) p :: rest → t.bus.phase = .awaitRx →
      p.rxPresented = true → t.ports.now ≤ p.now → s.bus.lastCommandTime + 500000 < p.now →
      ∃ t', step t = .next t' ∧ t'.ch.length = s.bus.n ∧
        ∀ c ∈ t'.ch, c.frame = 0x000F ∧ c.lastThrottleFrame = 0x000F ∧ c.repeatCounter = 0 ∧
          c.delayDeadline = none)
end

