-- ==== Sys2Proof/Laws/Frame.lean ====
section
/-!
SUPPORT. The small lemmas of the frame encoder: the fields of an encoded frame, and the checksum
by nibbles.
-/

namespace Sys2Proof.Machine

/-- The checksum is the complement of the XOR of the value's three nibbles (R121). -/
theorem crc4_nibbles (v : BitVec 12) :
    crc4 v = ~~~(v.extractLsb' 0 4 ^^^ v.extractLsb' 4 4 ^^^ v.extractLsb' 8 4) := by
  apply BitVec.eq_of_getLsbD_eq
  intro i hi
  simp only [crc4, BitVec.getLsbD_setWidth, BitVec.getLsbD_and, BitVec.getLsbD_not,
    BitVec.getLsbD_xor, BitVec.getLsbD_ushiftRight, BitVec.getLsbD_extractLsb']
  interval_cases i <;> simp

@[simp] theorem valueOf_encodeFrame (p : BitVec 11) (t : BitVec 1) :
    valueOf (encodeFrame p t) = p ++ t := by
  apply BitVec.eq_of_getLsbD_eq
  intro i hi
  simp only [valueOf, encodeFrame, BitVec.getLsbD_append, BitVec.getLsbD_extractLsb']
  interval_cases i <;> simp

@[simp] theorem crcOf_encodeFrame (p : BitVec 11) (t : BitVec 1) :
    crcOf (encodeFrame p t) = crc4 (p ++ t) := by
  apply BitVec.eq_of_getLsbD_eq
  intro i hi
  simp only [crcOf, encodeFrame, BitVec.getLsbD_append, BitVec.getLsbD_extractLsb']
  interval_cases i <;> simp

@[simp] theorem payloadOf_encodeFrame (p : BitVec 11) (t : BitVec 1) :
    payloadOf (encodeFrame p t) = p := by
  apply BitVec.eq_of_getLsbD_eq
  intro i hi
  simp only [payloadOf, encodeFrame, BitVec.getLsbD_append, BitVec.getLsbD_extractLsb']
  interval_cases i <;> simp

@[simp] theorem telemetryBitOf_encodeFrame (p : BitVec 11) (t : BitVec 1) :
    telemetryBitOf (encodeFrame p t) = t := by
  apply BitVec.eq_of_getLsbD_eq
  intro i hi
  simp only [telemetryBitOf, encodeFrame, BitVec.getLsbD_append, BitVec.getLsbD_extractLsb']
  interval_cases i
  simp

/-- A frame is its value and its checksum. -/
theorem frame_split (f : Frame) : f = valueOf f ++ crcOf f := by
  apply BitVec.eq_of_getLsbD_eq
  intro i hi
  simp only [valueOf, crcOf, BitVec.getLsbD_append, BitVec.getLsbD_extractLsb']
  interval_cases i <;> simp

@[simp] theorem checksumConsistent_encodeFrame (p : BitVec 11) (t : BitVec 1) :
    checksumConsistent (encodeFrame p t) = true := by
  simp [checksumConsistent]

@[simp] theorem isThrottleFrame_encodeFrame (v : BitVec 11) :
    isThrottleFrame (encodeFrame v 0#1) = true := by
  simp [isThrottleFrame]

theorem isCommandFrame_encodeFrame {c : BitVec 11} (h : c.toNat ≤ cmdMax) :
    isCommandFrame (encodeFrame c 1#1) = true := by
  simp [isCommandFrame, h]

/-- A throttle frame's checksum is right, since it is an encoded frame. -/
theorem checksumConsistent_of_throttle {f : Frame} (h : isThrottleFrame f = true) :
    checksumConsistent f = true := by
  rw [isThrottleFrame, beq_iff_eq] at h
  rw [h]
  exact checksumConsistent_encodeFrame _ _

end Sys2Proof.Machine
end

