-- ==== Sys2Proof/Laws/State.lean ====
section
/-!
SUPPORT. One lemma per field per update of the state, each true by rfl, so that no later proof
unfolds a record update.
-/

namespace Sys2Proof.Machine

/-! ### emit -/

@[simp] theorem emit_ch (e : Event) (s : State) :
    (emit e s).ch = s.ch := rfl

@[simp] theorem emit_bus (e : Event) (s : State) :
    (emit e s).bus = s.bus := rfl

@[simp] theorem emit_startTime (e : Event) (s : State) :
    (emit e s).startTime = s.startTime := rfl

@[simp] theorem emit_constructed (e : Event) (s : State) :
    (emit e s).constructed = s.constructed := rfl

@[simp] theorem emit_ports (e : Event) (s : State) :
    (emit e s).ports = s.ports := rfl

@[simp] theorem emit_events (e : Event) (s : State) :
    (emit e s).events = s.events ++ [e] := rfl

@[simp] theorem emit_results (e : Event) (s : State) :
    (emit e s).results = s.results := rfl

@[simp] theorem emit_config (e : Event) (s : State) :
    (emit e s).config = s.config := rfl

@[simp] theorem emit_inputs (e : Event) (s : State) :
    (emit e s).inputs = s.inputs := rfl

/-! ### returnResult -/

@[simp] theorem returnResult_ch (v : OpResult) (s : State) :
    (returnResult v s).ch = s.ch := rfl

@[simp] theorem returnResult_bus (v : OpResult) (s : State) :
    (returnResult v s).bus = s.bus := rfl

@[simp] theorem returnResult_startTime (v : OpResult) (s : State) :
    (returnResult v s).startTime = s.startTime := rfl

@[simp] theorem returnResult_constructed (v : OpResult) (s : State) :
    (returnResult v s).constructed = s.constructed := rfl

@[simp] theorem returnResult_ports (v : OpResult) (s : State) :
    (returnResult v s).ports = s.ports := rfl

@[simp] theorem returnResult_events (v : OpResult) (s : State) :
    (returnResult v s).events = s.events := rfl

@[simp] theorem returnResult_results (v : OpResult) (s : State) :
    (returnResult v s).results = s.results ++ [v] := rfl

@[simp] theorem returnResult_config (v : OpResult) (s : State) :
    (returnResult v s).config = s.config := rfl

@[simp] theorem returnResult_inputs (v : OpResult) (s : State) :
    (returnResult v s).inputs = s.inputs := rfl

/-! ### updateChannel -/

@[simp] theorem updateChannel_ch (k : Nat) (f : Channel → Channel) (s : State) :
    (updateChannel k f s).ch = s.ch.modify k f := rfl

@[simp] theorem updateChannel_bus (k : Nat) (f : Channel → Channel) (s : State) :
    (updateChannel k f s).bus = s.bus := rfl

@[simp] theorem updateChannel_startTime (k : Nat) (f : Channel → Channel) (s : State) :
    (updateChannel k f s).startTime = s.startTime := rfl

@[simp] theorem updateChannel_constructed (k : Nat) (f : Channel → Channel) (s : State) :
    (updateChannel k f s).constructed = s.constructed := rfl

@[simp] theorem updateChannel_ports (k : Nat) (f : Channel → Channel) (s : State) :
    (updateChannel k f s).ports = s.ports := rfl

@[simp] theorem updateChannel_events (k : Nat) (f : Channel → Channel) (s : State) :
    (updateChannel k f s).events = s.events := rfl

@[simp] theorem updateChannel_results (k : Nat) (f : Channel → Channel) (s : State) :
    (updateChannel k f s).results = s.results := rfl

@[simp] theorem updateChannel_config (k : Nat) (f : Channel → Channel) (s : State) :
    (updateChannel k f s).config = s.config := rfl

@[simp] theorem updateChannel_inputs (k : Nat) (f : Channel → Channel) (s : State) :
    (updateChannel k f s).inputs = s.inputs := rfl

/-! ### setPhase -/

@[simp] theorem setPhase_ch (p : Phase) (s : State) :
    (setPhase p s).ch = s.ch := rfl

@[simp] theorem setPhase_bus (p : Phase) (s : State) :
    (setPhase p s).bus = { s.bus with phase := p } := rfl

@[simp] theorem setPhase_startTime (p : Phase) (s : State) :
    (setPhase p s).startTime = s.startTime := rfl

@[simp] theorem setPhase_constructed (p : Phase) (s : State) :
    (setPhase p s).constructed = s.constructed := rfl

@[simp] theorem setPhase_ports (p : Phase) (s : State) :
    (setPhase p s).ports = s.ports := rfl

@[simp] theorem setPhase_events (p : Phase) (s : State) :
    (setPhase p s).events = s.events := rfl

@[simp] theorem setPhase_results (p : Phase) (s : State) :
    (setPhase p s).results = s.results := rfl

@[simp] theorem setPhase_config (p : Phase) (s : State) :
    (setPhase p s).config = s.config := rfl

@[simp] theorem setPhase_inputs (p : Phase) (s : State) :
    (setPhase p s).inputs = s.inputs := rfl

/-! ### setLastCommandTime -/

@[simp] theorem setLastCommandTime_ch (t : Nat) (s : State) :
    (setLastCommandTime t s).ch = s.ch := rfl

@[simp] theorem setLastCommandTime_bus (t : Nat) (s : State) :
    (setLastCommandTime t s).bus = { s.bus with lastCommandTime := t } := rfl

@[simp] theorem setLastCommandTime_startTime (t : Nat) (s : State) :
    (setLastCommandTime t s).startTime = s.startTime := rfl

@[simp] theorem setLastCommandTime_constructed (t : Nat) (s : State) :
    (setLastCommandTime t s).constructed = s.constructed := rfl

@[simp] theorem setLastCommandTime_ports (t : Nat) (s : State) :
    (setLastCommandTime t s).ports = s.ports := rfl

@[simp] theorem setLastCommandTime_events (t : Nat) (s : State) :
    (setLastCommandTime t s).events = s.events := rfl

@[simp] theorem setLastCommandTime_results (t : Nat) (s : State) :
    (setLastCommandTime t s).results = s.results := rfl

@[simp] theorem setLastCommandTime_config (t : Nat) (s : State) :
    (setLastCommandTime t s).config = s.config := rfl

@[simp] theorem setLastCommandTime_inputs (t : Nat) (s : State) :
    (setLastCommandTime t s).inputs = s.inputs := rfl

/-! ### awaitAnswer -/

@[simp] theorem awaitAnswer_ch (s : State) :
    (awaitAnswer s).ch = s.ch := rfl

@[simp] theorem awaitAnswer_bus (s : State) :
    (awaitAnswer s).bus = { s.bus with phase := .awaitRx } := rfl

@[simp] theorem awaitAnswer_startTime (s : State) :
    (awaitAnswer s).startTime = opNow s := rfl

@[simp] theorem awaitAnswer_constructed (s : State) :
    (awaitAnswer s).constructed = s.constructed := rfl

@[simp] theorem awaitAnswer_ports (s : State) :
    (awaitAnswer s).ports = s.ports := rfl

@[simp] theorem awaitAnswer_events (s : State) :
    (awaitAnswer s).events = s.events := rfl

@[simp] theorem awaitAnswer_results (s : State) :
    (awaitAnswer s).results = s.results := rfl

@[simp] theorem awaitAnswer_config (s : State) :
    (awaitAnswer s).config = s.config := rfl

@[simp] theorem awaitAnswer_inputs (s : State) :
    (awaitAnswer s).inputs = s.inputs := rfl

/-! ### presented -/

@[simp] theorem presented_ch (p : Ports) (rest : List Input) (s : State) :
    (presented p rest s).ch = s.ch := rfl

@[simp] theorem presented_bus (p : Ports) (rest : List Input) (s : State) :
    (presented p rest s).bus = s.bus := rfl

@[simp] theorem presented_startTime (p : Ports) (rest : List Input) (s : State) :
    (presented p rest s).startTime = s.startTime := rfl

@[simp] theorem presented_constructed (p : Ports) (rest : List Input) (s : State) :
    (presented p rest s).constructed = s.constructed := rfl

@[simp] theorem presented_ports (p : Ports) (rest : List Input) (s : State) :
    (presented p rest s).ports = p := rfl

@[simp] theorem presented_events (p : Ports) (rest : List Input) (s : State) :
    (presented p rest s).events = s.events := rfl

@[simp] theorem presented_results (p : Ports) (rest : List Input) (s : State) :
    (presented p rest s).results = s.results := rfl

@[simp] theorem presented_config (p : Ports) (rest : List Input) (s : State) :
    (presented p rest s).config = s.config := rfl

@[simp] theorem presented_inputs (p : Ports) (rest : List Input) (s : State) :
    (presented p rest s).inputs = rest := rfl

/-! ### The state after reset -/

@[simp] theorem afterReset_ch (cfg : Config) (n speedKhz : Nat) (t0 : Nat) (rest : List Input) :
    (State.afterReset cfg n speedKhz t0 rest).ch = List.replicate n resetChannel := rfl

@[simp] theorem afterReset_bus (cfg : Config) (n speedKhz : Nat) (t0 : Nat) (rest : List Input) :
    (State.afterReset cfg n speedKhz t0 rest).bus = resetBusRegisters n speedKhz t0 := rfl

@[simp] theorem afterReset_startTime (cfg : Config) (n speedKhz : Nat) (t0 : Nat) (rest : List Input) :
    (State.afterReset cfg n speedKhz t0 rest).startTime = t0 := rfl

@[simp] theorem afterReset_constructed (cfg : Config) (n speedKhz : Nat) (t0 : Nat) (rest : List Input) :
    (State.afterReset cfg n speedKhz t0 rest).constructed = true := rfl

@[simp] theorem afterReset_ports (cfg : Config) (n speedKhz : Nat) (t0 : Nat) (rest : List Input) :
    (State.afterReset cfg n speedKhz t0 rest).ports = ⟨t0, false, 0, false⟩ := rfl

@[simp] theorem afterReset_events (cfg : Config) (n speedKhz : Nat) (t0 : Nat) (rest : List Input) :
    (State.afterReset cfg n speedKhz t0 rest).events = [] := rfl

@[simp] theorem afterReset_results (cfg : Config) (n speedKhz : Nat) (t0 : Nat) (rest : List Input) :
    (State.afterReset cfg n speedKhz t0 rest).results = [] := rfl

@[simp] theorem afterReset_config (cfg : Config) (n speedKhz : Nat) (t0 : Nat) (rest : List Input) :
    (State.afterReset cfg n speedKhz t0 rest).config = cfg := rfl

@[simp] theorem afterReset_inputs (cfg : Config) (n speedKhz : Nat) (t0 : Nat) (rest : List Input) :
    (State.afterReset cfg n speedKhz t0 rest).inputs = rest := rfl

/-! ### Writes to a channel record -/

@[simp] theorem throttleChannel_frame (value : BitVec 11) (c : Channel) :
    (throttleChannel value c).frame = encodeFrame value 0 := rfl

@[simp] theorem throttleChannel_lastThrottleFrame (value : BitVec 11) (c : Channel) :
    (throttleChannel value c).lastThrottleFrame = encodeFrame value 0 := rfl

@[simp] theorem throttleChannel_repeatCounter (value : BitVec 11) (c : Channel) :
    (throttleChannel value c).repeatCounter = 0 := rfl

@[simp] theorem throttleChannel_delayDeadline (value : BitVec 11) (c : Channel) :
    (throttleChannel value c).delayDeadline = none := rfl

@[simp] theorem throttleChannel_txFrames (value : BitVec 11) (c : Channel) :
    (throttleChannel value c).txFrames = c.txFrames := rfl

@[simp] theorem throttleChannel_rxFrames (value : BitVec 11) (c : Channel) :
    (throttleChannel value c).rxFrames = c.rxFrames := rfl

@[simp] theorem throttleChannel_rxTimeout (value : BitVec 11) (c : Channel) :
    (throttleChannel value c).rxTimeout = c.rxTimeout := rfl

@[simp] theorem throttleChannel_rxBadGcr (value : BitVec 11) (c : Channel) :
    (throttleChannel value c).rxBadGcr = c.rxBadGcr := rfl

@[simp] theorem throttleChannel_rxBadCrc (value : BitVec 11) (c : Channel) :
    (throttleChannel value c).rxBadCrc = c.rxBadCrc := rfl

@[simp] theorem throttleChannel_rxBadType (value : BitVec 11) (c : Channel) :
    (throttleChannel value c).rxBadType = c.rxBadType := rfl

@[simp] theorem commandChannel_frame (cfg : Config) (cmd : BitVec 11) (rep : BitVec 8) (now : Nat) (c : Channel) :
    (commandChannel cfg cmd rep now c).frame = encodeFrame cmd 1 := rfl

@[simp] theorem commandChannel_lastThrottleFrame (cfg : Config) (cmd : BitVec 11) (rep : BitVec 8) (now : Nat) (c : Channel) :
    (commandChannel cfg cmd rep now c).lastThrottleFrame = c.lastThrottleFrame := rfl

@[simp] theorem commandChannel_repeatCounter (cfg : Config) (cmd : BitVec 11) (rep : BitVec 8) (now : Nat) (c : Channel) :
    (commandChannel cfg cmd rep now c).repeatCounter = rep := rfl

@[simp] theorem commandChannel_delayDeadline (cfg : Config) (cmd : BitVec 11) (rep : BitVec 8) (now : Nat) (c : Channel) :
    (commandChannel cfg cmd rep now c).delayDeadline = delayFor cfg cmd now := rfl

@[simp] theorem commandChannel_txFrames (cfg : Config) (cmd : BitVec 11) (rep : BitVec 8) (now : Nat) (c : Channel) :
    (commandChannel cfg cmd rep now c).txFrames = c.txFrames := rfl

@[simp] theorem commandChannel_rxFrames (cfg : Config) (cmd : BitVec 11) (rep : BitVec 8) (now : Nat) (c : Channel) :
    (commandChannel cfg cmd rep now c).rxFrames = c.rxFrames := rfl

@[simp] theorem commandChannel_rxTimeout (cfg : Config) (cmd : BitVec 11) (rep : BitVec 8) (now : Nat) (c : Channel) :
    (commandChannel cfg cmd rep now c).rxTimeout = c.rxTimeout := rfl

@[simp] theorem commandChannel_rxBadGcr (cfg : Config) (cmd : BitVec 11) (rep : BitVec 8) (now : Nat) (c : Channel) :
    (commandChannel cfg cmd rep now c).rxBadGcr = c.rxBadGcr := rfl

@[simp] theorem commandChannel_rxBadCrc (cfg : Config) (cmd : BitVec 11) (rep : BitVec 8) (now : Nat) (c : Channel) :
    (commandChannel cfg cmd rep now c).rxBadCrc = c.rxBadCrc := rfl

@[simp] theorem commandChannel_rxBadType (cfg : Config) (cmd : BitVec 11) (rep : BitVec 8) (now : Nat) (c : Channel) :
    (commandChannel cfg cmd rep now c).rxBadType = c.rxBadType := rfl

@[simp] theorem countTx_frame (c : Channel) :
    (countTx c).frame = c.frame := rfl

@[simp] theorem countTx_lastThrottleFrame (c : Channel) :
    (countTx c).lastThrottleFrame = c.lastThrottleFrame := rfl

@[simp] theorem countTx_repeatCounter (c : Channel) :
    (countTx c).repeatCounter = c.repeatCounter := rfl

@[simp] theorem countTx_delayDeadline (c : Channel) :
    (countTx c).delayDeadline = c.delayDeadline := rfl

@[simp] theorem countTx_txFrames (c : Channel) :
    (countTx c).txFrames = c.txFrames + 1 := rfl

@[simp] theorem countTx_rxFrames (c : Channel) :
    (countTx c).rxFrames = c.rxFrames := rfl

@[simp] theorem countTx_rxTimeout (c : Channel) :
    (countTx c).rxTimeout = c.rxTimeout := rfl

@[simp] theorem countTx_rxBadGcr (c : Channel) :
    (countTx c).rxBadGcr = c.rxBadGcr := rfl

@[simp] theorem countTx_rxBadCrc (c : Channel) :
    (countTx c).rxBadCrc = c.rxBadCrc := rfl

@[simp] theorem countTx_rxBadType (c : Channel) :
    (countTx c).rxBadType = c.rxBadType := rfl

end Sys2Proof.Machine
end

