-- ==== Sys2Proof/Laws/Ops.lean ====
section
/-!
SUPPORT. What each shared operation can do, said once: later proofs cite these lemmas and unfold
none of the operations.
-/

namespace Sys2Proof.Machine

/-! ### The host calls' paths -/

@[simp] theorem throttlePath_ch (k : Nat) (v : BitVec 11) (now : Nat) (s : State) :
    (throttlePath k v now s).ch = s.ch.modify k (throttleChannel v) := rfl

@[simp] theorem throttlePath_bus (k : Nat) (v : BitVec 11) (now : Nat) (s : State) :
    (throttlePath k v now s).bus = { s.bus with lastCommandTime := now } := rfl

/-- A write by SET_THROTTLE's path leaves everything else alone. -/
theorem throttlePath_frame (k : Nat) (v : BitVec 11) (now : Nat) (s : State) :
    throttlePath k v now s =
      { s with
        ch := s.ch.modify k (throttleChannel v)
        bus := { s.bus with lastCommandTime := now } } := rfl

/-- A write by SEND_COMMAND's path leaves everything else alone. -/
theorem commandPath_frame (k : Nat) (cmd : BitVec 11) (rep : BitVec 8) (now : Nat) (s : State) :
    commandPath k cmd rep now s =
      { s with
        ch := s.ch.modify k (commandChannel s.config cmd rep now)
        bus := { s.bus with lastCommandTime := now } } := rfl

/-- Writing a record that is there by a function is storing the function's value. -/
theorem modify_eq_set {l : List Channel} {k : Nat} {c : Channel} (h : l[k]? = some c)
    (f : Channel → Channel) : l.modify k f = l.set k (f c) := by
  apply List.ext_getElem?
  intro j
  rw [List.getElem?_modify, List.getElem?_set]
  by_cases hj : k = j
  · subst hj
    obtain ⟨hk, rfl⟩ := List.getElem?_eq_some_iff.mp h
    simp [hk]
  · simp [hj]

/-! ### START's steps -/

@[simp] theorem advance_ch (s : State) : (advance s).ch = s.ch := by
  unfold advance; split <;> rfl

@[simp] theorem advance_startTime (s : State) : (advance s).startTime = s.startTime := by
  unfold advance; split <;> rfl

@[simp] theorem advance_constructed (s : State) : (advance s).constructed = s.constructed := by
  unfold advance; split <;> rfl

@[simp] theorem advance_ports (s : State) : (advance s).ports = s.ports := by
  unfold advance; split <;> rfl

@[simp] theorem advance_results (s : State) : (advance s).results = s.results := by
  unfold advance; split <;> rfl

@[simp] theorem advance_config (s : State) : (advance s).config = s.config := by
  unfold advance; split <;> rfl

@[simp] theorem advance_inputs (s : State) : (advance s).inputs = s.inputs := by
  unfold advance; split <;> rfl

/-- Advance moves the pointer and `tx_select` together, or neither (R171). -/
theorem advance_bus (s : State) :
    (advance s).bus = if s.bus.n > 1 then
      { s.bus with currentChannel := nextChannel s.bus, txSelect := nextChannel s.bus }
      else s.bus := by
  unfold advance; split <;> rfl

@[simp] theorem advance_bus_n (s : State) : (advance s).bus.n = s.bus.n := by
  unfold advance; split <;> rfl

@[simp] theorem advance_bus_lastCommandTime (s : State) :
    (advance s).bus.lastCommandTime = s.bus.lastCommandTime := by
  unfold advance; split <;> rfl

@[simp] theorem advance_bus_bitPeriodCycles (s : State) :
    (advance s).bus.bitPeriodCycles = s.bus.bitPeriodCycles := by
  unfold advance; split <;> rfl

@[simp] theorem advance_bus_phase (s : State) : (advance s).bus.phase = s.bus.phase := by
  unfold advance; split <;> rfl

/-- The only event of advance is `Select` of the new pointer (R171). -/
theorem advance_events (s : State) :
    (advance s).events =
      s.events ++ if s.bus.n > 1 then [.select (advance s).bus.currentChannel] else [] := by
  unfold advance; split <;> simp [*]

/-- The pointer stays below `N` (R40 (I1)). -/
theorem advance_pointer_lt (s : State) (h : s.bus.currentChannel < s.bus.n) :
    (advance s).bus.currentChannel < s.bus.n := by
  rw [advance_bus]
  split
  · exact Nat.mod_lt _ (by omega)
  · exact h

/-- The pointer after advance is `(current_channel + 1) mod N`, for `N = 1` too. -/
theorem advance_pointer (s : State) (h : s.bus.currentChannel < s.bus.n) :
    (advance s).bus.currentChannel = (s.bus.currentChannel + 1) % s.bus.n := by
  rw [advance_bus]
  split
  · rfl
  · have : s.bus.n = 1 := by omega
    rw [this, Nat.mod_one]
    show s.bus.currentChannel = 0
    omega

/-- The repeat step by the counter's value (R172). -/
theorem repeatStep_cases (c : Channel) :
    (c.repeatCounter = 0 → repeatStep c = c) ∧
    (c.repeatCounter = 1 →
      repeatStep c = { c with repeatCounter := 0, frame := c.lastThrottleFrame }) ∧
    (1 < c.repeatCounter.toNat →
      repeatStep c = { c with repeatCounter := c.repeatCounter - 1 }) := by
  refine ⟨fun h => by simp [repeatStep, h], fun h => by simp [repeatStep, h], fun h => ?_⟩
  have h1 : c.repeatCounter.toNat > 0 := by omega
  have h2 : ¬ (c.repeatCounter - 1 = 0) := by
    intro e
    have := congrArg BitVec.toNat e
    simp [BitVec.toNat_sub] at this
    omega
  unfold repeatStep
  rw [if_pos h1, if_neg h2]

@[simp] theorem repeatStep_lastThrottleFrame (c : Channel) :
    (repeatStep c).lastThrottleFrame = c.lastThrottleFrame := by
  unfold repeatStep; split <;> (try split) <;> rfl

@[simp] theorem repeatStep_delayDeadline (c : Channel) :
    (repeatStep c).delayDeadline = c.delayDeadline := by
  unfold repeatStep; split <;> (try split) <;> rfl

@[simp] theorem repeatStep_txFrames (c : Channel) :
    (repeatStep c).txFrames = c.txFrames := by
  unfold repeatStep; split <;> (try split) <;> rfl

@[simp] theorem repeatStep_rxFrames (c : Channel) :
    (repeatStep c).rxFrames = c.rxFrames := by
  unfold repeatStep; split <;> (try split) <;> rfl

@[simp] theorem repeatStep_rxTimeout (c : Channel) :
    (repeatStep c).rxTimeout = c.rxTimeout := by
  unfold repeatStep; split <;> (try split) <;> rfl

@[simp] theorem repeatStep_rxBadGcr (c : Channel) :
    (repeatStep c).rxBadGcr = c.rxBadGcr := by
  unfold repeatStep; split <;> (try split) <;> rfl

@[simp] theorem repeatStep_rxBadCrc (c : Channel) :
    (repeatStep c).rxBadCrc = c.rxBadCrc := by
  unfold repeatStep; split <;> (try split) <;> rfl

@[simp] theorem repeatStep_rxBadType (c : Channel) :
    (repeatStep c).rxBadType = c.rxBadType := by
  unfold repeatStep; split <;> (try split) <;> rfl

@[simp] theorem expireDelay_frame (now : Nat) (c : Channel) :
    (expireDelay now c).frame = c.frame := by
  unfold expireDelay; split <;> (try split) <;> rfl

@[simp] theorem expireDelay_lastThrottleFrame (now : Nat) (c : Channel) :
    (expireDelay now c).lastThrottleFrame = c.lastThrottleFrame := by
  unfold expireDelay; split <;> (try split) <;> rfl

@[simp] theorem expireDelay_repeatCounter (now : Nat) (c : Channel) :
    (expireDelay now c).repeatCounter = c.repeatCounter := by
  unfold expireDelay; split <;> (try split) <;> rfl

@[simp] theorem expireDelay_txFrames (now : Nat) (c : Channel) :
    (expireDelay now c).txFrames = c.txFrames := by
  unfold expireDelay; split <;> (try split) <;> rfl

@[simp] theorem expireDelay_rxFrames (now : Nat) (c : Channel) :
    (expireDelay now c).rxFrames = c.rxFrames := by
  unfold expireDelay; split <;> (try split) <;> rfl

@[simp] theorem expireDelay_rxTimeout (now : Nat) (c : Channel) :
    (expireDelay now c).rxTimeout = c.rxTimeout := by
  unfold expireDelay; split <;> (try split) <;> rfl

@[simp] theorem expireDelay_rxBadGcr (now : Nat) (c : Channel) :
    (expireDelay now c).rxBadGcr = c.rxBadGcr := by
  unfold expireDelay; split <;> (try split) <;> rfl

@[simp] theorem expireDelay_rxBadCrc (now : Nat) (c : Channel) :
    (expireDelay now c).rxBadCrc = c.rxBadCrc := by
  unfold expireDelay; split <;> (try split) <;> rfl

@[simp] theorem expireDelay_rxBadType (now : Nat) (c : Channel) :
    (expireDelay now c).rxBadType = c.rxBadType := by
  unfold expireDelay; split <;> (try split) <;> rfl

/-- The record START leaves on the addressed channel (R172 to R174). -/
def served (now : Nat) (ready : Bool) (c : Channel) : Channel :=
  if submits ready (expireDelay now (repeatStep c)) then countTx (expireDelay now (repeatStep c))
  else expireDelay now (repeatStep c)

@[simp] theorem served_frame (now : Nat) (ready : Bool) (c : Channel) :
    (served now ready c).frame = (repeatStep c).frame := by
  unfold served; split <;> simp

@[simp] theorem served_repeatCounter (now : Nat) (ready : Bool) (c : Channel) :
    (served now ready c).repeatCounter = (repeatStep c).repeatCounter := by
  unfold served; split <;> simp

@[simp] theorem served_lastThrottleFrame (now : Nat) (ready : Bool) (c : Channel) :
    (served now ready c).lastThrottleFrame = c.lastThrottleFrame := by
  unfold served; split <;> simp

@[simp] theorem served_rxFrames (now : Nat) (ready : Bool) (c : Channel) :
    (served now ready c).rxFrames = c.rxFrames := by
  unfold served; split <;> simp

@[simp] theorem served_rxTimeout (now : Nat) (ready : Bool) (c : Channel) :
    (served now ready c).rxTimeout = c.rxTimeout := by
  unfold served; split <;> simp

@[simp] theorem served_rxBadGcr (now : Nat) (ready : Bool) (c : Channel) :
    (served now ready c).rxBadGcr = c.rxBadGcr := by
  unfold served; split <;> simp

@[simp] theorem served_rxBadCrc (now : Nat) (ready : Bool) (c : Channel) :
    (served now ready c).rxBadCrc = c.rxBadCrc := by
  unfold served; split <;> simp

@[simp] theorem served_rxBadType (now : Nat) (ready : Bool) (c : Channel) :
    (served now ready c).rxBadType = c.rxBadType := by
  unfold served; split <;> simp

@[simp] theorem served_delayDeadline (now : Nat) (ready : Bool) (c : Channel) :
    (served now ready c).delayDeadline = (expireDelay now c).delayDeadline := by
  have : (expireDelay now (repeatStep c)).delayDeadline = (expireDelay now c).delayDeadline := by
    unfold expireDelay
    rw [repeatStep_delayDeadline]
    split <;> (try split) <;> simp_all
  unfold served; split <;> simp [this]

/-- START's steps 2 to 4 write the addressed channel's record and emit at most one `Submit`. -/
theorem serveChannel_spec (k : Nat) (c : Channel) (s : State) :
    serveChannel k c s =
      { s with
        ch := s.ch.modify k fun _ => served (opNow s) (opTxReady s) c
        events := s.events ++
          if submits (opTxReady s) (expireDelay (opNow s) (repeatStep c)) then
            [.submit (expireDelay (opNow s) (repeatStep c)).frame s.bus.bitPeriodCycles]
          else [] } := by
  unfold serveChannel served
  dsimp only
  split <;> simp [updateChannel, emit]

/-! ### COMPLETE's steps -/

/-- Counting an answer touches the five receive counters alone. -/
theorem countRx_spec (status : Status) (c : Channel) :
    countRx status c = { c with
      rxFrames := c.rxFrames + if status = .ok then 1 else 0
      rxTimeout := c.rxTimeout + if status = .timeout then 1 else 0
      rxBadGcr := c.rxBadGcr + if status = .badGcr then 1 else 0
      rxBadCrc := c.rxBadCrc + if status = .badCrc then 1 else 0
      rxBadType := c.rxBadType + if status = .badType then 1 else 0 } := by
  cases status <;> simp [countRx]

/-- Dispatch emits `Telemetry` on success and nothing on an error. -/
theorem dispatchTelemetry_spec (k : Nat) (r : DecodeResult) (s : State) :
    dispatchTelemetry k r s = { s with
      events := s.events ++ if r.status = .ok then [.telemetry k r.kind r.value] else [] } := by
  unfold dispatchTelemetry
  cases h : r.status <;> simp [emit]

/-- Neutralising channels `0 .. m-1` in increasing order writes SET_THROTTLE's record with value 0
on each of them, and `last_command_time` where there is one. -/
theorem neutralize_range (now : Nat) (s : State) (m : Nat) :
    (List.range m).foldl (neutralize now) s = { s with
      ch := s.ch.mapIdx fun i c => if i < m then throttleChannel 0 c else c
      bus := { s.bus with
        lastCommandTime := if m = 0 then s.bus.lastCommandTime else now } } := by
  induction m with
  | zero =>
    have : s.ch.mapIdx (fun _ c => c) = s.ch := by
      apply List.ext_getElem? ; intro j; simp
    simp [this]
  | succ m ih =>
    rw [List.range_succ, List.foldl_append, ih, List.foldl_cons, List.foldl_nil]
    simp only [neutralize, throttlePath_frame, Nat.succ_ne_zero, if_false]
    congr 1
    apply List.ext_getElem?
    intro j
    rw [List.getElem?_modify]
    by_cases hj : m = j
    · subst hj; cases s.ch[m]? <;> simp
    · cases hc : s.ch[j]? with
      | none => simp [hc, hj]
      | some c =>
        have : (j ≤ m) = (j < m) := by simp only [eq_iff_iff]; omega
        simp [hc, hj, this]

/-- The failsafe, where every channel has its record: all of them neutral, or nothing. -/
theorem failsafe_spec (s : State) (hl : s.ch.length = s.bus.n) (hn : 1 ≤ s.bus.n) :
    failsafe s = if failsafeDue (opNow s) s.bus.lastCommandTime then
      { s with
        ch := s.ch.map (throttleChannel 0)
        bus := { s.bus with lastCommandTime := opNow s } }
      else s := by
  unfold failsafe
  split
  · rw [neutralize_range, if_neg (by omega)]
    congr 1
    apply List.ext_getElem?
    intro j
    cases hc : s.ch[j]? with
    | none => simp [hc]
    | some c =>
      have : j < s.bus.n := hl ▸ (List.getElem?_eq_some_iff.mp hc).1
      simp [hc, this]
  · rfl

/-- The failsafe in any state: the records it neutralises are those below `N`. -/
theorem failsafe_any (s : State) {due : Bool}
    (h : failsafeDue (opNow s) s.bus.lastCommandTime = due) :
    failsafe s = { s with
      ch := s.ch.mapIdx fun j c =>
        if due = true ∧ j < s.bus.n then throttleChannel 0 c else c
      bus := { s.bus with
        lastCommandTime :=
          if due = true ∧ s.bus.n ≠ 0 then opNow s else s.bus.lastCommandTime } } := by
  unfold failsafe
  rw [h]
  cases due with
  | true =>
    rw [if_pos rfl, neutralize_range]
    by_cases hn : s.bus.n = 0 <;> simp [hn]
  | false =>
    have : s.ch.mapIdx (fun _ c => c) = s.ch := by
      apply List.ext_getElem? ; intro j; simp
    simp [this]

/-- Writing one record is rewriting all of them, the others by themselves. -/
theorem modify_eq_mapIdx (l : List Channel) (k : Nat) (f : Channel → Channel) :
    l.modify k f = l.mapIdx fun j c => if j = k then f c else c := by
  apply List.ext_getElem?
  intro j
  simp only [List.getElem?_modify, List.getElem?_mapIdx]
  cases l[j]? with
  | none => simp
  | some c => by_cases h : j = k <;> simp [h, Ne.symm]

end Sys2Proof.Machine
end

