-- ==== Sys2Proof/Laws/PerInstr.lean ====
section
/-!
SUPPORT. Per operation: the word the encoder writes selects the operation's own row of R92's table,
and its fields are the operands (R91, R93).
-/

namespace Sys2Proof.Laws.SelectsItsRow

/-- The row an operation belongs to. -/
def rowOf : Instr → Mnemonic
  | .encode _ _ => .ENCODE
  | .decode => .DECODE
  | .setThrottle _ _ => .SET_THROTTLE
  | .sendCommand _ _ _ => .SEND_COMMAND
  | .start => .START
  | .complete => .COMPLETE
  | .readChannel _ => .READ_CHANNEL
  | .readBus => .READ_BUS

/-- The encoded word selects the operation's own row, and assembling that row's operands gives the
operation back. -/
def Statement (i : Instr) : Prop :=
  (opRows.find? (·.selects (Sys2Proof.encode i))).map (·.mnemonic) = some (rowOf i) ∧
    assemble (rowOf i) (Sys2Proof.encode i) = i

/-- A word that selects a row has the row's opcode in bits 31:28. -/
theorem opcode_of_selects {r : OpRow} (hr : r ∈ opRows) {w : Word} (h : r.selects w = true) :
    w.extractLsb' 28 4 = r.bits.extractLsb' 28 4 := by
  have h' : w &&& r.mask = r.bits := by simpa [OpRow.selects] using h
  have hm : r.mask.extractLsb' 28 4 = BitVec.allOnes 4 := by
    have all : ∀ r ∈ opRows, r.mask.extractLsb' 28 4 = BitVec.allOnes 4 := by decide
    exact all r hr
  rw [← h', BitVec.extractLsb'_and, hm, BitVec.and_allOnes]

/-- The rows' opcodes differ, so a word selects at most one row (R92). -/
theorem row_unique {r r' : OpRow} (hr : r ∈ opRows) (hr' : r' ∈ opRows) {w : Word}
    (h : r.selects w = true) (h' : r'.selects w = true) : r = r' := by
  have distinct : ∀ r ∈ opRows, ∀ r' ∈ opRows,
      r.bits.extractLsb' 28 4 = r'.bits.extractLsb' 28 4 → r = r' := by decide
  exact distinct r hr r' hr' ((opcode_of_selects hr h).symm.trans (opcode_of_selects hr' h'))

/-- The row a word selects is the one the decoder finds. -/
theorem find_of_selects {r : OpRow} (hr : r ∈ opRows) {w : Word} (h : r.selects w = true) :
    opRows.find? (·.selects w) = some r := by
  cases hf : opRows.find? (·.selects w) with
  | none => exact absurd h (by simpa using List.find?_eq_none.mp hf r hr)
  | some r' =>
    rw [row_unique (List.mem_of_find?_eq_some hf) hr (by simpa using List.find?_some hf) h]

theorem encode (payload : BitVec 11) (t : BitVec 1) : Statement (.encode payload t) := by
  have h : (⟨.ENCODE, 0x10000000, 0xFFFFF000⟩ : OpRow).selects
      (Sys2Proof.encode (.encode payload t)) = true := by
    simp only [OpRow.selects, beq_iff_eq]
    apply BitVec.eq_of_getLsbD_eq
    intro i hi
    simp only [Sys2Proof.encode, BitVec.getLsbD_and, BitVec.getLsbD_append]
    interval_cases i <;> simp
  refine ⟨by rw [find_of_selects (by simp [opRows]) h]; rfl, ?_⟩
  simp only [assemble, rowOf, Instr.encode.injEq]
  constructor <;> apply BitVec.eq_of_getLsbD_eq <;> intro i hi <;>
    simp only [Sys2Proof.encode, immField, tField, BitVec.getLsbD_extractLsb', BitVec.getLsbD_append] <;>
    interval_cases i <;> simp

theorem decode : Statement .decode := by
  unfold Statement
  decide

theorem setThrottle (ch : BitVec 4) (value : BitVec 11) : Statement (.setThrottle ch value) := by
  have h : (⟨.SET_THROTTLE, 0x30000000, 0xF0FFF800⟩ : OpRow).selects
      (Sys2Proof.encode (.setThrottle ch value)) = true := by
    simp only [OpRow.selects, beq_iff_eq]
    apply BitVec.eq_of_getLsbD_eq
    intro i hi
    simp only [Sys2Proof.encode, BitVec.getLsbD_and, BitVec.getLsbD_append]
    interval_cases i <;> simp
  refine ⟨by rw [find_of_selects (by simp [opRows]) h]; rfl, ?_⟩
  simp only [assemble, rowOf, Instr.setThrottle.injEq]
  constructor <;> apply BitVec.eq_of_getLsbD_eq <;> intro i hi <;>
    simp only [Sys2Proof.encode, immField, chField, BitVec.getLsbD_extractLsb', BitVec.getLsbD_append] <;>
    interval_cases i <;> simp

theorem sendCommand (ch : BitVec 4) (command : BitVec 11) (rep : BitVec 8) :
    Statement (.sendCommand ch command rep) := by
  have h : (⟨.SEND_COMMAND, 0x40000000, 0xF000F800⟩ : OpRow).selects
      (Sys2Proof.encode (.sendCommand ch command rep)) = true := by
    simp only [OpRow.selects, beq_iff_eq]
    apply BitVec.eq_of_getLsbD_eq
    intro i hi
    simp only [Sys2Proof.encode, BitVec.getLsbD_and, BitVec.getLsbD_append]
    interval_cases i <;> simp
  refine ⟨by rw [find_of_selects (by simp [opRows]) h]; rfl, ?_⟩
  simp only [assemble, rowOf, Instr.sendCommand.injEq]
  refine ⟨?_, ?_, ?_⟩ <;> apply BitVec.eq_of_getLsbD_eq <;> intro i hi <;>
    simp only [Sys2Proof.encode, immField, chField, repField, BitVec.getLsbD_extractLsb', BitVec.getLsbD_append] <;>
    interval_cases i <;> simp

theorem start : Statement .start := by
  unfold Statement
  decide

theorem complete : Statement .complete := by
  unfold Statement
  decide

theorem readChannel (ch : BitVec 4) : Statement (.readChannel ch) := by
  have h : (⟨.READ_CHANNEL, 0x70000000, 0xF0FFFFFF⟩ : OpRow).selects
      (Sys2Proof.encode (.readChannel ch)) = true := by
    simp only [OpRow.selects, beq_iff_eq]
    apply BitVec.eq_of_getLsbD_eq
    intro i hi
    simp only [Sys2Proof.encode, BitVec.getLsbD_and, BitVec.getLsbD_append]
    interval_cases i <;> simp
  refine ⟨by rw [find_of_selects (by simp [opRows]) h]; rfl, ?_⟩
  simp only [assemble, rowOf, Instr.readChannel.injEq]
  apply BitVec.eq_of_getLsbD_eq
  intro i hi
  simp only [Sys2Proof.encode, chField, BitVec.getLsbD_extractLsb', BitVec.getLsbD_append]
  interval_cases i <;> simp

theorem readBus : Statement .readBus := by
  unfold Statement
  decide

end Sys2Proof.Laws.SelectsItsRow
end

