-- ==== Sys2Proof/Laws/Step.lean ====
section
/-!
SUPPORT. What an operation and a step can do, said once: the form of START's and COMPLETE's next
state, and the inversion of a step.
-/

namespace Sys2Proof.Machine

/-- START completes in IDLE wherever the addressed channel has its record. -/
theorem exec_start_next (s : State) (hp : s.bus.phase = .idle) (hl : s.ch.length = s.bus.n)
    (hk : s.bus.currentChannel < s.bus.n) :
    ∃ c, s.ch[(advance s).bus.currentChannel]? = some c ∧
      exec .start s =
        .next (awaitAnswer (serveChannel (advance s).bus.currentChannel c (advance s))) := by
  have h : (advance s).bus.currentChannel < s.ch.length := hl ▸ advance_pointer_lt s hk
  refine ⟨s.ch[(advance s).bus.currentChannel], List.getElem?_eq_getElem h, ?_⟩
  simp [exec, execStart, startCycle, hp, List.getElem?_eq_getElem h]

/-- Everything START does where it completes (R171 to R175). -/
theorem exec_start_spec (s : State) (hp : s.bus.phase = .idle) (hl : s.ch.length = s.bus.n)
    (hk : s.bus.currentChannel < s.bus.n) :
    ∃ t c, exec .start s = .next t ∧ s.ch[t.bus.currentChannel]? = some c ∧
      t.bus.currentChannel = (advance s).bus.currentChannel ∧
      t.ch = s.ch.modify t.bus.currentChannel
        (fun _ => served s.ports.now s.ports.txReady c) ∧
      t.events = s.events ++
        (if 1 < s.bus.n then [.select t.bus.currentChannel] else []) ++
        (if submits s.ports.txReady (expireDelay s.ports.now (repeatStep c)) then
          [.submit (repeatStep c).frame s.bus.bitPeriodCycles] else []) ∧
      t.bus = { (advance s).bus with phase := .awaitRx } ∧ t.startTime = s.ports.now ∧
      t.constructed = s.constructed ∧ t.ports = s.ports ∧ t.results = s.results ∧
      t.config = s.config ∧ t.inputs = s.inputs := by
  obtain ⟨c, hc, he⟩ := exec_start_next s hp hl hk
  refine ⟨_, c, he, ?_⟩
  simp [serveChannel_spec, opNow, opTxReady, hc, advance_events]

/-- A START that completes ran in IDLE, on a channel that has its record. -/
theorem exec_start_inv {s t : State} (h : exec .start s = .next t) :
    s.bus.phase = .idle ∧ ∃ c, s.ch[(advance s).bus.currentChannel]? = some c ∧
      t = awaitAnswer (serveChannel (advance s).bus.currentChannel c (advance s)) := by
  unfold exec execStart at h
  cases hp : s.bus.phase with
  | awaitRx => simp [hp] at h
  | idle =>
    simp only [hp, startCycle, advance_ch] at h
    cases hc : s.ch[(advance s).bus.currentChannel]? with
    | none => simp [hc] at h
    | some c => exact ⟨rfl, c, rfl, by simpa [hc] using h.symm⟩

/-- COMPLETE completes in AWAIT_RX once it has its word. -/
theorem exec_complete_next (s : State) (raw : Word) (hp : s.bus.phase = .awaitRx)
    (hl : s.ch.length = s.bus.n) (hk : s.bus.currentChannel < s.bus.n)
    (hr : receivedWord s = some raw) :
    exec .complete s = .next (completeWith raw s) := by
  have h : s.bus.currentChannel < s.ch.length := hl ▸ hk
  simp [exec, execComplete, completeCycle, hp, hr, List.getElem?_eq_getElem h]

/-- Everything COMPLETE does once it has its word (R178 to R181). -/
theorem completeWith_spec (raw : Word) (s : State) (hl : s.ch.length = s.bus.n)
    (hk : s.bus.currentChannel < s.bus.n) :
    completeWith raw s = { s with
      ch := (s.ch.modify s.bus.currentChannel
          (countRx (decodeTelemetry s.config.gcrMap raw).status)).map
        (if failsafeDue s.ports.now s.bus.lastCommandTime then throttleChannel 0 else id)
      bus := { s.bus with
        lastCommandTime :=
          if failsafeDue s.ports.now s.bus.lastCommandTime then s.ports.now
          else s.bus.lastCommandTime
        phase := .idle }
      events := s.events ++
        if (decodeTelemetry s.config.gcrMap raw).status = .ok then
          [.telemetry s.bus.currentChannel (decodeTelemetry s.config.gcrMap raw).kind
            (decodeTelemetry s.config.gcrMap raw).value]
        else [] } := by
  unfold completeWith
  dsimp only
  rw [dispatchTelemetry_spec, failsafe_spec]
  rotate_left
  · simpa using hl
  · show 1 ≤ s.bus.n
    omega
  cases hd : failsafeDue s.ports.now s.bus.lastCommandTime <;>
    simp [opNow, setPhase, updateChannel, hd]

/-- COMPLETE in any state, once it has its word: each record is counted on or left alone, and then
neutralised or left alone. -/
theorem completeWith_any (raw : Word) (s : State) :
    ∃ (g : Nat → Channel → Channel) (t : Nat),
      (∀ j c, g j c = c ∨ g j c = throttleChannel 0 c) ∧
      completeWith raw s = { s with
        ch := s.ch.mapIdx fun j c => g j (if j = s.bus.currentChannel then
          countRx (decodeTelemetry s.config.gcrMap raw).status c else c)
        bus := { s.bus with lastCommandTime := t, phase := .idle }
        events := s.events ++ if (decodeTelemetry s.config.gcrMap raw).status = .ok then
          [.telemetry s.bus.currentChannel (decodeTelemetry s.config.gcrMap raw).kind
            (decodeTelemetry s.config.gcrMap raw).value] else [] } := by
  obtain ⟨due, hd⟩ : ∃ due, failsafeDue (opNow s) s.bus.lastCommandTime = due := ⟨_, rfl⟩
  refine ⟨fun j c => if due = true ∧ j < s.bus.n then throttleChannel 0 c else c,
    if due = true ∧ s.bus.n ≠ 0 then opNow s else s.bus.lastCommandTime, ?_, ?_⟩
  · intro j c
    dsimp only
    split <;> simp
  · unfold completeWith
    dsimp only
    rw [dispatchTelemetry_spec, failsafe_any (due := due)]
    · simp only [setPhase, updateChannel, modify_eq_mapIdx, List.mapIdx_mapIdx]
      rfl
    · exact hd

/-- A COMPLETE that completes ran in AWAIT_RX, had its word, and its channel its record. -/
theorem exec_complete_inv {s t : State} (h : exec .complete s = .next t) :
    s.bus.phase = .awaitRx ∧ ∃ raw c, receivedWord s = some raw ∧
      s.ch[s.bus.currentChannel]? = some c ∧ t = completeWith raw s := by
  unfold exec execComplete at h
  cases hp : s.bus.phase with
  | idle => simp [hp] at h
  | awaitRx =>
    simp only [hp, completeCycle] at h
    cases hr : receivedWord s with
    | none => simp [hr] at h
    | some raw =>
      cases hc : s.ch[s.bus.currentChannel]? with
      | none => simp [hr, hc] at h
      | some c => exact ⟨rfl, raw, c, rfl, rfl, by simpa [hr, hc] using h.symm⟩

/-- The only refusals of a meaning: a command above 47, and START and COMPLETE out of phase. -/
theorem exec_refused_inv {i : Instr} {s : State} {r : Refusal} (h : exec i s = .refused r) :
    (i.wellFormed = false ∧ r = .commandRange) ∨
    (i = .start ∧ s.bus.phase = .awaitRx ∧ r = .phaseOrder) ∨
    (i = .complete ∧ s.bus.phase = .idle ∧ r = .phaseOrder) := by
  cases i with
  | encode p b => cases h
  | decode => cases h
  | readChannel c => cases h
  | readBus => cases h
  | setThrottle c v =>
    simp only [exec, execSetThrottle] at h
    split at h <;> cases h
  | sendCommand c cmd rep =>
    simp only [exec, execSendCommand] at h
    split at h
    · split at h <;> cases h
    · cases h
      exact .inl ⟨by simpa [Instr.wellFormed] using ‹¬cmd.toNat ≤ cmdMax›, rfl⟩
  | start =>
    cases hp : s.bus.phase with
    | awaitRx => simp [exec, execStart, hp] at h; simp [h]
    | idle =>
      simp only [exec, execStart, hp, startCycle] at h
      split at h <;> cases h
  | complete =>
    cases hp : s.bus.phase with
    | idle => simp [exec, execComplete, hp] at h; simp [h]
    | awaitRx =>
      simp only [exec, execComplete, hp, completeCycle] at h
      split at h
      · cases h
      · split at h <;> cases h

/-- A step that answers a next state consumed an admitted operation or a legal reset. -/
theorem step_inv {s s' : State} (h : step s = .next s') :
    (∃ w p rest i, s.inputs = .op w p :: rest ∧ s.constructed = true ∧ decode w = .ok i ∧
      s.ports.now ≤ p.now ∧ exec i (presented p rest s) = .next s') ∨
    ∃ n speedKhz t0 rest, s.inputs = .reset n speedKhz t0 :: rest ∧
      resetArgsLegal s.config n speedKhz = true ∧
      s' = State.afterReset s.config n speedKhz t0 rest := by
  unfold step at h
  cases hi : s.inputs with
  | nil => simp [hi] at h
  | cons x rest =>
    cases x with
    | teardown => simp [hi, consume] at h
    | reset n sp t0 =>
      right
      simp only [hi, consume, resetBus] at h
      split at h
      · rename_i hl
        exact ⟨n, sp, t0, rest, rfl, hl, by simpa using h.symm⟩
      · simp at h
    | op w p =>
      left
      simp only [hi, consume, admission] at h
      cases hc : s.constructed with
      | false => simp [hc] at h
      | true =>
        cases hd : decode w with
        | error r => simp [hc, hd] at h
        | ok i =>
          simp only [hc, hd, if_true] at h
          by_cases hn : p.now < s.ports.now
          · simp [hn] at h
          · exact ⟨w, p, rest, i, rfl, rfl, hd, by omega, by simpa [hn] using h⟩

/-- A step on an admitted operation is its meaning. -/
theorem step_admitted {s : State} {w : Word} {p : Ports} {rest : List Input} {i : Instr}
    (hi : s.inputs = .op w p :: rest) (hc : s.constructed = true) (hd : decode w = .ok i)
    (hn : s.ports.now ≤ p.now) : step s = exec i (presented p rest s) := by
  have : ¬ p.now < s.ports.now := by omega
  simp [step, hi, consume, admission, hc, hd, this]

/-- A run of `k + 1` steps is one step and a run of `k` steps. -/
theorem run_succ (k : Nat) (s : State) :
    Sys2Proof.core.run (k + 1) s = match step s with
      | .next s' => Sys2Proof.core.run k s'
      | .fault r => .fault r
      | .refused r => .refused r := by
  cases h : step s <;>
    simp only [Host.Core.run, show Sys2Proof.core.step s = step s from rfl, h]

/-- A run of `k + 1` steps that completes is one step and a run of `k` steps. -/
theorem run_succ_inv {k : Nat} {s t : State} (h : Sys2Proof.core.run (k + 1) s = .next t) :
    ∃ s', step s = .next s' ∧ Sys2Proof.core.run k s' = .next t := by
  rw [run_succ] at h
  cases hs : step s with
  | next s' => exact ⟨s', rfl, by simpa [hs] using h⟩
  | fault r => simp [hs] at h
  | refused r => simp [hs] at h

/-- A run of no steps stays. -/
theorem run_zero_inv {s t : State} (h : Sys2Proof.core.run 0 s = .next t) : t = s := by
  cases h
  rfl

end Sys2Proof.Machine
end

