-- ==== Sys2Proof/Laws/Sound.lean ====
section
/-!
SUPPORT. What each write to a channel record keeps of that record's invariants (spec 10_state.md
R40), and what no operation touches.
-/

namespace Sys2Proof.Machine

/-- The record of a reset channel is sound. -/
theorem resetChannel_sound (now : Nat) : resetChannel.Sound now :=
  ⟨by decide, by decide, by decide, by decide, by simp [resetChannel]⟩

/-- A sound record stays sound as time goes on. -/
theorem Channel.Sound.mono {a b : Nat} {c : Channel} (h : c.Sound a) (hab : a ≤ b) :
    c.Sound b := by
  refine ⟨h.repeats_command, h.last_is_throttle, h.checksum, h.frame_kind, ?_⟩
  have near := h.deadline_near
  cases hd : c.delayDeadline with
  | none => simp
  | some d => simp [hd] at near ⊢; omega

/-- SET_THROTTLE's write makes any record sound. -/
theorem throttleChannel_sound (value : BitVec 11) (now : Nat) (c : Channel) :
    (throttleChannel value c).Sound now :=
  ⟨by simp [Channel.repeating], by simp, by simp, by simp, by simp⟩

/-- SEND_COMMAND's write keeps a record sound. -/
theorem commandChannel_sound {cmd : BitVec 11} (h : cmd.toNat ≤ cmdMax) (cfg : Config)
    (rep : BitVec 8) {now : Nat} {c : Channel} (hs : c.Sound now) :
    (commandChannel cfg cmd rep now c).Sound now := by
  refine ⟨fun _ => ?_, ?_, ?_, .inr ?_, ?_⟩
  · simpa using isCommandFrame_encodeFrame h
  · simpa using hs.last_is_throttle
  · simp
  · simpa using isCommandFrame_encodeFrame h
  · simp only [commandChannel_delayDeadline, delayFor]
    split
    · simp
    · split
      · simp; decide
      · simp

/-- START's repeat step keeps a record sound. -/
theorem repeatStep_sound {now : Nat} {c : Channel} (hs : c.Sound now) :
    (repeatStep c).Sound now := by
  unfold repeatStep
  split
  · split
    · exact ⟨by simp_all [Channel.repeating], hs.last_is_throttle,
        checksumConsistent_of_throttle hs.last_is_throttle, .inl rfl, hs.deadline_near⟩
    · exact ⟨fun _ => hs.repeats_command (by simpa [Channel.repeating]), hs.last_is_throttle,
        hs.checksum, hs.frame_kind, hs.deadline_near⟩
  · exact hs

/-- START's delay expiry keeps a record sound. -/
theorem expireDelay_sound {now : Nat} {c : Channel} (n : Nat) (hs : c.Sound now) :
    (expireDelay n c).Sound now := by
  unfold expireDelay
  split
  · split
    · exact ⟨hs.repeats_command, hs.last_is_throttle, hs.checksum, hs.frame_kind, by simp⟩
    · exact hs
  · exact hs

/-- START keeps the record it serves sound. -/
theorem served_sound {now : Nat} {c : Channel} (n : Nat) (ready : Bool) (hs : c.Sound now) :
    (served n ready c).Sound now := by
  have h := expireDelay_sound n (repeatStep_sound hs)
  unfold served
  split
  · exact ⟨h.repeats_command, h.last_is_throttle, h.checksum, h.frame_kind, h.deadline_near⟩
  · exact h

/-- Counting an answer keeps a record sound. -/
theorem countRx_sound {now : Nat} {c : Channel} (status : Status) (hs : c.Sound now) :
    (countRx status c).Sound now := by
  rw [countRx_spec]
  exact ⟨hs.repeats_command, hs.last_is_throttle, hs.checksum, hs.frame_kind, hs.deadline_near⟩

/-- What holds of every record and of what a write makes of it holds after the write. -/
theorem forall_mem_modify {l : List Channel} {P : Channel → Prop} {k : Nat}
    {f : Channel → Channel} (h : ∀ c ∈ l, P c) (hf : ∀ c ∈ l, P (f c)) :
    ∀ c ∈ l.modify k f, P c := by
  rw [modify_eq_mapIdx]
  intro c hc
  obtain ⟨i, hi, rfl⟩ := List.mem_mapIdx.mp hc
  split
  · exact hf _ (List.getElem_mem _)
  · exact h _ (List.getElem_mem _)

/-- No operation touches the parameters, the inputs, the ports, `N` or `constructed`. -/
theorem exec_keeps {i : Instr} {s t : State} (h : exec i s = .next t) :
    t.config = s.config ∧ t.constructed = s.constructed ∧ t.inputs = s.inputs ∧
      t.ports = s.ports ∧ t.bus.n = s.bus.n := by
  cases i with
  | encode p b => cases h; simp
  | decode => cases h; simp
  | readChannel c => cases h; simp
  | readBus => cases h; simp
  | setThrottle c v =>
    simp only [exec, execSetThrottle] at h
    split at h <;> cases h <;> simp [throttlePath_frame]
  | sendCommand c cmd rep =>
    simp only [exec, execSendCommand] at h
    split at h <;> (try split at h) <;> cases h <;> simp [commandPath_frame]
  | start =>
    obtain ⟨_, c, _, rfl⟩ := exec_start_inv h
    rw [serveChannel_spec]
    simp
  | complete =>
    obtain ⟨_, raw, c, _, _, rfl⟩ := exec_complete_inv h
    obtain ⟨g, t, _, he⟩ := completeWith_any raw s
    rw [he]
    simp

end Sys2Proof.Machine
end

