-- ==== Sys2Proof/Laws/Telemetry.lean ====
section
/-!
SUPPORT. What the telemetry decoder can answer, said once: the four outcomes of a decode, and how
valid groups rebuild the edt word under a bijective map.
-/

namespace Sys2Proof.Machine

/-- Classification always succeeds: the seven even nonzero nibbles all have a kind (R148). -/
theorem classify_status (edt : Frame) : (classify edt).status = .ok := by
  unfold classify
  split
  · rename_i h
    unfold edtValue
    generalize edt.extractLsb' 12 4 = top at h
    have seven : ∀ top : BitVec 4, isExtended top = true → top.toNat ∈ [2, 4, 6, 8, 10, 12, 14] := by
      decide
    have := seven top h
    simp only [List.mem_cons, List.not_mem_nil, or_false] at this
    rcases this with h | h | h | h | h | h | h <;> simp [h]
  · rfl

/-- Whether the four groups of a word are all valid codewords (R143). -/
def groupsValid (raw : Word) : Bool :=
  validCodeword (gcrGroup (transitionDecode raw) 15) &&
  validCodeword (gcrGroup (transitionDecode raw) 10) &&
  validCodeword (gcrGroup (transitionDecode raw) 5) &&
  validCodeword (gcrGroup (transitionDecode raw) 0)

/-- The edt word of a raw word (R144). -/
def edtOf (gcrMap : List (BitVec 5)) (raw : Word) : Frame :=
  edtWord gcrMap (gcrGroup (transitionDecode raw) 15) (gcrGroup (transitionDecode raw) 10)
    (gcrGroup (transitionDecode raw) 5) (gcrGroup (transitionDecode raw) 0)

/-- The four outcomes of a decode, in the order of the checks (R140, R242). -/
theorem decodeTelemetry_cases (gcrMap : List (BitVec 5)) (raw : Word) :
    (raw = 0 ∧ decodeTelemetry gcrMap raw = decodeFailed .timeout) ∨
    (raw ≠ 0 ∧ groupsValid raw = false ∧ decodeTelemetry gcrMap raw = decodeFailed .badGcr) ∨
    (raw ≠ 0 ∧ groupsValid raw = true ∧ decodeTelemetry gcrMap raw = decodeFailed .badCrc) ∨
    (raw ≠ 0 ∧ groupsValid raw = true ∧
      decodeTelemetry gcrMap raw = classify (edtOf gcrMap raw)) := by
  by_cases h : raw = 0
  · exact .inl ⟨h, by simp [decodeTelemetry, h]⟩
  · right
    have e : decodeTelemetry gcrMap raw = if groupsValid raw then
        (if (edtOf gcrMap raw).extractLsb' 0 4 = edtChecksum (edtOf gcrMap raw) then
          classify (edtOf gcrMap raw) else decodeFailed .badCrc)
        else decodeFailed .badGcr := by
      simp only [decodeTelemetry, if_neg h]
      rfl
    rw [e]
    cases groupsValid raw with
    | false => exact .inl ⟨h, rfl, rfl⟩
    | true =>
      right
      by_cases hc : (edtOf gcrMap raw).extractLsb' 0 4 = edtChecksum (edtOf gcrMap raw)
      · exact .inr ⟨h, rfl, by rw [if_pos rfl, if_pos hc]⟩
      · exact .inl ⟨h, rfl, by rw [if_pos rfl, if_neg hc]⟩

/-- The groups depend on `raw[20:0]` alone (R83). -/
theorem gcrGroup_congr {raw raw' : Word} (h : raw.extractLsb' 0 21 = raw'.extractLsb' 0 21)
    {k : Nat} (hk : k ≤ 15) :
    gcrGroup (transitionDecode raw) k = gcrGroup (transitionDecode raw') k := by
  have bits : ∀ j, j < 21 → raw.getLsbD j = raw'.getLsbD j := by
    intro j hj
    simpa [hj] using congrArg (fun x => BitVec.getLsbD x j) h
  apply BitVec.eq_of_getLsbD_eq
  intro i hi
  simp only [gcrGroup, transitionDecode, BitVec.getLsbD_extractLsb', BitVec.getLsbD_xor,
    BitVec.getLsbD_ushiftRight]
  rw [bits _ (by omega), bits _ (by omega)]

/-- Under a bijective map, the codeword of a nibble is valid and maps back to it (R87). -/
theorem gcrNibble_of_entry {gcrMap : List (BitVec 5)} (h : gcrMap.Perm validCodewords)
    {x : BitVec 4} {g : BitVec 5} (hx : gcrMap[x.toNat]? = some g) :
    gcrNibble gcrMap g = x ∧ validCodeword g = true := by
  have distinct : validCodewords.Nodup := by decide
  obtain ⟨hl, rfl⟩ := List.getElem?_eq_some_iff.mp hx
  constructor
  · simp [gcrNibble, (h.nodup_iff.mpr distinct).idxOf_getElem]
  · simpa [validCodeword] using h.mem_iff.mp (List.getElem_mem hl)

/-- The checksum of an edt word by nibbles (R145). -/
theorem edtChecksum_nibbles (x3 x2 x1 x0 : BitVec 4) :
    edtChecksum (x3 ++ x2 ++ x1 ++ x0) = ~~~(x1 ^^^ x2 ^^^ x3) := by
  apply BitVec.eq_of_getLsbD_eq
  intro i hi
  simp only [edtChecksum, BitVec.getLsbD_setWidth, BitVec.getLsbD_and, BitVec.getLsbD_not,
    BitVec.getLsbD_xor, BitVec.getLsbD_ushiftRight, BitVec.getLsbD_append]
  interval_cases i <;> simp

/-- The period is the mantissa times a power of two (R149). -/
theorem erpmPeriod_eq (e : BitVec 3) (m : BitVec 9) :
    erpmPeriod e m = m.toNat * 2 ^ e.toNat := by
  simp [erpmPeriod, Nat.shiftLeft_eq]

/-- A classified value is at most 60_000_000 (R151). -/
theorem classify_value_le (edt : Frame) : (classify edt).value.toNat ≤ 60000000 := by
  unfold classify
  split
  · have := (edt.extractLsb' 4 8).isLt
    unfold edtValue
    split <;> simp [decodeFailed] <;> omega
  · simp only [erpmOfPeriod]
    split
    · simp
    split
    · simp
    · exact le_trans (Nat.mod_le _ _) (Nat.div_le_self _ _)

end Sys2Proof.Machine
end

