-- ==== Sys2Proof/Tests/Slice0.lean ====
section
/-!
SUPPORT. Tests. Every expected value is written out from the spec: the patterns of R92, and the
vectors of spec/95_test_vectors.md, named by their numbers there. The last part holds, for every
statement with hypotheses, a state and operands that meet them.
-/

namespace Sys2Proof.Tests

open Sys2Proof Sys2Proof.Machine

/-! ## Small states -/

/-- A bus after `RESET 4, 600 @ now=0`, the setup of spec/95 §2.3 and §2.4. -/
abbrev fresh : State := State.reset

/-- A bus after `RESET 1, 300 @ now=0` (M3). -/
def single : State := State.afterReset defaultConfig 1 300 0 []

/-- `s` with the ports of one operation: `now`, `tx_ready`, `rx_word`, and the word presented. -/
def given (s : State) (now : Nat) (ready : Bool) (raw : Word) : State :=
  { s with ports := ⟨now, ready, raw, true⟩ }

/-- The next state of an operation, where it has one. -/
def after (i : Instr) (s : State) : Option State :=
  match exec i s with
  | .next t => some t
  | .fault _ => none
  | .refused _ => none

/-- Why an operation stops, where it does. -/
def stop (i : Instr) (s : State) : Option (Fault ⊕ Refusal) :=
  match exec i s with
  | .next _ => none
  | .fault f => some (.inl f)
  | .refused r => some (.inr r)

/-- Why a step stops, where it does. -/
def stepStop (s : State) : Option (Fault ⊕ Refusal) :=
  match step s with
  | .next _ => none
  | .fault f => some (.inl f)
  | .refused r => some (.inr r)

/-- M1: the bus after its first START, submitting. -/
def started : State := (after .start (given fresh 1 true 0)).getD fresh

/-- The bus with the next operation word `w` presented at the time `now`. -/
def facing (s : State) (w : Word) (now : Nat) : State :=
  { s with inputs := [.op w ⟨now, true, 0, true⟩] }

/-- A bus where channel 0 holds command 7 with the repeat count `rep` (M6, M7). -/
def commanded (rep : BitVec 8) : State := (after (.sendCommand 0 7 rep) fresh).getD fresh

/-- A bus where channel 0 holds the info request, due at 12000 (M8, M9). -/
def delayed : State := (after (.sendCommand 0 6 5) fresh).getD fresh

/-! ## WellFormed -/

theorem test_wellFormed_refuses_command_48 :
    Instr.wellFormed (.sendCommand 0 48 0) = false := by decide

theorem test_wellFormed_refuses_command_2047 :
    Instr.wellFormed (.sendCommand 15 2047 255) = false := by decide

theorem test_wellFormed_accepts_command_47 :
    Instr.wellFormed (.sendCommand 15 47 255) = true := by decide

/-! ## Decode: words written out from R92's patterns, bit 31 first -/

theorem test_decode_encode :
    decode 0b00010000000000000000110000010110#32 = .ok (.encode 1046 1) := by decide

theorem test_decode_decode :
    decode 0b00100000000000000000000000000000#32 = .ok .decode := by decide

/-- P1's first word, 0x310003E8. -/
theorem test_decode_setThrottle :
    decode 0b00110001000000000000001111101000#32 = .ok (.setThrottle 1 1000) := by decide

/-- P3's 0x4106000C. -/
theorem test_decode_sendCommand :
    decode 0b01000001000001100000000000001100#32 = .ok (.sendCommand 1 12 6) := by decide

theorem test_decode_start :
    decode 0b01010000000000000000000000000000#32 = .ok .start := by decide

theorem test_decode_complete :
    decode 0b01100000000000000000000000000000#32 = .ok .complete := by decide

theorem test_decode_readChannel :
    decode 0b01111001000000000000000000000000#32 = .ok (.readChannel 9) := by decide

theorem test_decode_readBus :
    decode 0b10000000000000000000000000000000#32 = .ok .readBus := by decide

/-- X1 to X6. -/
theorem test_decode_refusals :
    decode 0x00000000 = .error .illegalOp ∧ decode 0x90000000 = .error .illegalOp ∧
    decode 0x50000001 = .error .illegalOp ∧ decode 0x30010000 = .error .illegalOp ∧
    decode 0x40000030 = .error .commandRange ∧
    decode 0x4000002F = .ok (.sendCommand 0 47 0) := by decide

/-- H9's word and P4's, written by the encoder. -/
theorem test_encode_words :
    encode (.encode 1046 0) = 0x10000416 ∧ encode (.setThrottle 5 100) = 0x35000064 ∧
    encode (.sendCommand 0 7 1) = 0x40010007 ∧ encode (.readChannel 15) = 0x7F000000 := by decide

/-- A row of the opcode table at its fixed bits alone. -/
theorem test_decodeTableWord :
    decodeTableWord 32 0x70000000 = some (.readChannel 0) ∧
    decodeTableWord 32 0x40000030 = none := by decide

/-! ## The frame encoder (spec/95 §2.1) -/

theorem test_encodeFrame :
    encodeFrame 0 0 = 0x000F ∧ encodeFrame 12 1 = 0x0197 ∧ encodeFrame 1046 0 = 0x82C9 ∧
    encodeFrame 2047 1 = 0xFFF0 := by decide

theorem test_wireWord : wireWord 0x82C9 = 0x7D36 ∧ wireWord 0x05F5 = 0xFA0A := by decide

/-- H9. -/
theorem test_exec_encode :
    (after (.encode 1046 0) fresh).map State.results = some [.frame 0x82C9] := by decide

/-! ## The telemetry decoder (spec/95 §2.2) -/

theorem test_decode_errors :
    decodeTelemetry gcrMapStandard 0 = ⟨.timeout, .erpm, 0⟩ ∧
    decodeTelemetry gcrMapStandard 0x00200000 = ⟨.badGcr, .erpm, 0⟩ ∧
    decodeTelemetry gcrMapStandard 0x001ED525 = ⟨.badGcr, .erpm, 0⟩ ∧
    decodeTelemetry gcrMapStandard 0x000ED524 = ⟨.badCrc, .erpm, 0⟩ := by decide

theorem test_decode_erpm :
    decodeTelemetry gcrMapStandard 0x020ED525 = ⟨.ok, .erpm, 60000⟩ ∧
    decodeTelemetry gcrMapStandard 0x00052951 = ⟨.ok, .erpm, 0⟩ ∧
    decodeTelemetry gcrMapStandard 0x0008BA4B = ⟨.ok, .erpm, 60000000⟩ ∧
    decodeTelemetry gcrMapStandard 0x000545D1 = ⟨.ok, .erpm, 1831⟩ := by decide

theorem test_decode_extended :
    decodeTelemetry gcrMapStandard 0x000E64C9 = ⟨.ok, .temperature, 85⟩ ∧
    decodeTelemetry gcrMapStandard 0x000B6C4B = ⟨.ok, .voltage, 24⟩ ∧
    decodeTelemetry gcrMapStandard 0x000DB99D = ⟨.ok, .current, 10⟩ ∧
    decodeTelemetry gcrMapStandard 0x0009B469 = ⟨.ok, .debug1, 18⟩ ∧
    decodeTelemetry gcrMapStandard 0x00067523 = ⟨.ok, .debug2, 52⟩ ∧
    decodeTelemetry gcrMapStandard 0x000A45DD = ⟨.ok, .stress, 0⟩ ∧
    decodeTelemetry gcrMapStandard 0x0005B231 = ⟨.ok, .status, 128⟩ := by decide

theorem test_decode_listed_map :
    decodeTelemetry gcrMapListed 0x0004AE9D = ⟨.ok, .erpm, 60000⟩ ∧
    decodeTelemetry gcrMapListed 0x000ED525 = ⟨.badCrc, .erpm, 0⟩ := by decide

theorem test_exec_decode :
    (after .decode (given fresh 0 false 0x000ED525)).map State.results
      = some [.decoded ⟨.ok, .erpm, 60000⟩] := by decide

/-! ## Host operations (spec/95 §2.4) -/

/-- H1. -/
theorem test_setThrottle :
    (after (.setThrottle 1 1000) (given fresh 100 false 0)).map (fun t =>
      (t.ch[1]?.map Channel.frame, t.ch[1]?.map Channel.lastThrottleFrame,
        t.bus.lastCommandTime)) = some (some 0x7D05, some 0x7D05, 100) := by decide

/-- H2. -/
theorem test_setThrottle_out_of_range :
    after (.setThrottle 4 1000) (given fresh 100 false 0) = some (given fresh 100 false 0) := by
  decide

/-- The bus of H1. -/
def throttled : State := (after (.setThrottle 1 1000) (given fresh 100 false 0)).getD fresh

/-- H4, on the bus of H1. -/
theorem test_sendCommand :
    (after (.sendCommand 1 12 10) (given throttled 200 false 0)).map (fun t => t.ch[1]?)
      = some (some { resetChannel with
          frame := 0x0197
          repeatCounter := 10
          delayDeadline := some 35200
          lastThrottleFrame := 0x7D05 }) ∧
    (after (.sendCommand 1 12 10) (given throttled 200 false 0)).map
      (fun t => t.bus.lastCommandTime) = some 200 := by decide

/-- H3. -/
theorem test_sendCommand_out_of_range :
    after (.sendCommand 15 3 2) (given fresh 100 false 0) = some (given fresh 100 false 0) := by
  decide

/-- H7, and R214's example. -/
theorem test_readChannel :
    (after (.readChannel 9) fresh).map State.results = some [.channel none] ∧
    (after (.readChannel 0) fresh).map State.results
      = some [.channel (some ⟨0x000F, 0x000F, 0, none, 0, 0, 0, 0, 0, 0⟩)] := by decide

/-- H8. -/
theorem test_readBus :
    (after .readBus fresh).map State.results = some [.bus ⟨4, 3, 0, 600, .idle, 3⟩] := by decide

/-! ## START and COMPLETE (spec/95 §2.3) -/

/-- M1 and M3. -/
theorem test_start_submits :
    (after .start (given fresh 1 true 0)).map (fun t =>
      (t.events, t.bus.currentChannel, t.bus.phase, t.ch[0]?.map Channel.txFrames))
      = some ([.select 0, .submit 0x000F 600], 0, .awaitRx, some 1) ∧
    (after .start (given single 1 true 0)).map (fun t => (t.events, t.bus.currentChannel))
      = some ([.submit 0x000F 300], 0) := by decide

/-- M7, M8 and M9. -/
theorem test_start_repeat_and_delay :
    (after .start (given (commanded 1) 1 true 0)).map (fun t =>
      (t.events, t.ch[0]?.map Channel.repeatCounter))
      = some ([.select 0, .submit 0x000F 600], some 0) ∧
    (after .start (given delayed 11999 true 0)).map (fun t =>
      (t.events, t.ch[0]?.map Channel.repeatCounter)) = some ([.select 0], some 4) ∧
    (after .start (given delayed 12000 true 0)).map (fun t =>
      (t.events, t.ch[0]?.map Channel.delayDeadline))
      = some ([.select 0, .submit 0x00D2 600], some none) := by decide

/-- M4 and M5. -/
theorem test_complete_counts :
    (after .complete (given started 2 false 0)).map (fun t =>
      (t.events.length, t.ch[0]?.map Channel.rxTimeout, t.bus.phase)) = some (2, some 1, .idle) ∧
    (after .complete (given started 2 false 0x000E64C9)).map (fun t =>
      (t.events.drop 2, t.ch[0]?.map Channel.rxFrames))
      = some ([.telemetry 0 .temperature 85], some 1) := by decide

/-- The bus of H1, whose last command is at 100, after a START. -/
def throttledStarted : State := (after .start (given throttled 1000 true 0)).getD fresh

/-- M10 and M11 on the bus of H1: the throttle of channel 1 outlives 500100 and not 500101. -/
theorem test_complete_failsafe :
    (after .complete (given throttledStarted 500100 false 0)).map (fun t =>
      (t.bus.lastCommandTime, t.ch[1]?.map Channel.frame)) = some (100, some 0x7D05) ∧
    (after .complete (given throttledStarted 500101 false 0)).map (fun t =>
      (t.bus.lastCommandTime, t.ch[1]?.map Channel.lastThrottleFrame))
      = some (500101, some 0x000F) := by decide

/-! ## Refusals (spec/95 §2.5) -/

/-- X7, X8 and X10. -/
theorem test_phase_and_time_refusals :
    stop .complete fresh = some (.inr .phaseOrder) ∧
    stop .start started = some (.inr .phaseOrder) ∧
    stepStop (facing (given fresh 10 false 0) (encode .start) 9) = some (.inr .timeReversal) := by
  decide

/-- X9, and the bounds of R270. -/
theorem test_badConfig :
    stepStop { fresh with inputs := [.reset 0 600 0] } = some (.inr .badConfig) ∧
    stepStop { fresh with inputs := [.reset 17 600 0] } = some (.inr .badConfig) ∧
    stepStop { fresh with inputs := [.reset 16 65535 0] } = none ∧
    stepStop { fresh with inputs := [.reset 1 65536 0] } = some (.inr .badConfig) := by decide

/-- R270: an operation before the first reset. -/
theorem test_beforeReset :
    stepStop (facing (State.beforeReset defaultConfig []) (encode .readBus) 0)
      = some (.inr .beforeReset) := by decide

/-- The host's question: the table's word runs as the first operation after reset. -/
theorem test_withFetchWord :
    stepStop (State.reset.withFetchWord 32 0x50000000) = none ∧
    stepStop (State.reset.withFetchWord 32 0x60000000) = some (.inr .phaseOrder) := by decide

/-! ## Witnesses: every statement with hypotheses has a state and operands that meet them -/

/-- The default parameters are legal (R7, R87, R212). -/
theorem witness_legal : defaultConfig.Legal :=
  ⟨by decide, by decide, by decide, by decide, by decide⟩

/-- So are they with the listed map (R87) and with a receive bound. -/
theorem witness_legal_listed :
    ({ defaultConfig with gcrMap := gcrMapListed, rxWaitBound := some 1000 } : Config).Legal :=
  ⟨by decide, by decide, by decide, by decide, by decide⟩

/-- The invariant is met by the reset state whatever is presented next. -/
theorem witness_inv (inputs : List Input) : ({ State.reset with inputs := inputs }).Inv := by
  refine ⟨witness_legal, fun _ =>
    ⟨(by decide : 1 ≤ State.reset.bus.n),
      (by decide : State.reset.bus.n ≤ State.reset.config.maxChannels),
      (by decide : State.reset.ch.length = State.reset.bus.n),
      (by decide : State.reset.bus.currentChannel < State.reset.bus.n),
      (by decide : State.reset.bus.txSelect < State.reset.bus.n),
      fun _ => (by decide : State.reset.bus.txSelect = State.reset.bus.currentChannel),
      (by decide : 1 ≤ State.reset.bus.bitPeriodCycles.toNat ∧
        State.reset.bus.bitPeriodCycles.toNat ≤ 65535),
      (by decide : State.reset.bus.lastCommandTime ≤ State.reset.ports.now),
      (by decide : State.reset.startTime ≤ State.reset.ports.now), fun c hc => ?_⟩⟩
  have : c = resetChannel := by
    simpa [State.reset, State.afterReset] using hc
  exact this ▸ resetChannel_sound _

theorem witness_DecodeInvertsEncode : Instr.wellFormed (.sendCommand 15 47 255) = true := by decide

theorem witness_EncodeInvertsDecode : decode 0x4FFF002F = .ok (.sendCommand 15 47 255) := by decide

/-- One illegal word for each clause, at the lowest or highest must-be-zero bit, and the first
command number out of range. -/
theorem witness_WordsOutsideTheTableAreRefused :
    (0x0FFFFFFF#32).extractLsb' 28 4 = 0 ∧ (0x90000000#32).extractLsb' 28 4 = 9 ∧
    0x10001000#32 &&& 0x0FFFF000 ≠ 0 ∧ 0x28000000#32 &&& 0x0FFFFFFF ≠ 0 ∧
    0x30000800#32 &&& 0x00FFF800 ≠ 0 ∧ 0x40008000#32 &&& 0x0000F800 ≠ 0 ∧
    0x50000001#32 &&& 0x0FFFFFFF ≠ 0 ∧ 0x68000000#32 &&& 0x0FFFFFFF ≠ 0 ∧
    0x70800000#32 &&& 0x00FFFFFF ≠ 0 ∧ 0x80000001#32 &&& 0x0FFFFFFF ≠ 0 ∧
    0x40000030#32 &&& 0x0000F800 = 0 ∧ 47 < ((0x40000030#32).extractLsb' 0 11).toNat ∧
    ((0x40000030#32).extractLsb' 28 4).toNat = 4 ∧
    (facing fresh 0x40000030 0).inputs = .op 0x40000030 ⟨0, true, 0, true⟩ :: [] ∧
    (facing fresh 0x40000030 0).constructed = true := by decide

theorem witness_EncodedFramesAreTheConsistentOnes :
    (0x82C9#16).extractLsb' 0 4 = crc4 ((0x82C9#16).extractLsb' 4 12) ∧
    encodeFrame 1046 0 = 0x82C9 := by decide

theorem witness_FramesGiveTheirOperandsBack :
    isThrottleFrame 0xFFE1 = true ∧ isCommandFrame 0x05F5 = true ∧
    (47 : BitVec 11).toNat ≤ 47 ∧ 0x05F5 = encodeFrame 47 1 := by decide

theorem witness_WireWordIsTheComplement : 15 < 16 := by decide

theorem witness_BadGcrIsAnInvalidGroup : 0x00000001#32 ≠ 0 ∧ 0x000ED525#32 ≠ 0 := by decide

theorem witness_HighRawBitsAreIgnored :
    0x000ED525#32 ≠ 0 ∧ 0xFFEED525#32 ≠ 0 ∧
    (0x000ED525#32).extractLsb' 0 21 = (0xFFEED525#32).extractLsb' 0 21 := by decide

theorem witness_GcrMapIsABijection :
    defaultConfig.Legal ∧ validCodeword 0x0F = true ∧
      gcrNibble defaultConfig.gcrMap 0x0F = 15 := ⟨witness_legal, by decide, by decide⟩

/-- 0x000ED525 has the nibbles 3, F, 4, 7, with the right checksum; 0x000ED524 has 3, F, 4, 6. -/
theorem witness_ValidGroupsRebuildTheEdtWord :
    defaultConfig.Legal ∧ 0x000ED525#32 ≠ 0 ∧ 0x000ED524#32 ≠ 0 ∧
    defaultConfig.gcrMap[3]? = some ((0x000ED525#32 ^^^ (0x000ED525#32 >>> 1)).extractLsb' 15 5) ∧
    defaultConfig.gcrMap[15]? = some ((0x000ED525#32 ^^^ (0x000ED525#32 >>> 1)).extractLsb' 10 5) ∧
    defaultConfig.gcrMap[4]? = some ((0x000ED525#32 ^^^ (0x000ED525#32 >>> 1)).extractLsb' 5 5) ∧
    defaultConfig.gcrMap[7]? = some ((0x000ED525#32 ^^^ (0x000ED525#32 >>> 1)).extractLsb' 0 5) ∧
    (7 : BitVec 4) = ~~~(4 ^^^ 15 ^^^ 3) ∧
    defaultConfig.gcrMap[6]? = some ((0x000ED524#32 ^^^ (0x000ED524#32 >>> 1)).extractLsb' 0 5) ∧
    (6 : BitVec 4) ≠ ~~~(4 ^^^ 15 ^^^ 3) := ⟨witness_legal, by decide⟩

theorem witness_ExtendedWordsReportTheirKind :
    ((0x255D#16).extractLsb' 12 4).toNat = 0x2 ∧ ((0x4FFB#16).extractLsb' 12 4).toNat = 0x4 ∧
    ((0x60A3#16).extractLsb' 12 4).toNat = 0x6 ∧ ((0x8124#16).extractLsb' 12 4).toNat = 0x8 ∧
    ((0xA342#16).extractLsb' 12 4).toNat = 0xA ∧ ((0xC003#16).extractLsb' 12 4).toNat = 0xC ∧
    ((0xE809#16).extractLsb' 12 4).toNat = 0xE := by decide

/-- Period 0xFF80, period 0, and the periods 1 and 65280 next to them. -/
theorem witness_LegacyWordsReportErpm :
    ((0xFFF0#16).extractLsb' 4 9).toNat * 2 ^ ((0xFFF0#16).extractLsb' 13 3).toNat = 0xFF80 ∧
    ((0xFFF0#16).extractLsb' 12 4).toNat % 2 = 1 ∧
    ((0x000F#16).extractLsb' 4 9).toNat * 2 ^ ((0x000F#16).extractLsb' 13 3).toNat = 0 ∧
    ((0x000F#16).extractLsb' 12 4).toNat = 0 ∧
    ((0x001E#16).extractLsb' 4 9).toNat * 2 ^ ((0x001E#16).extractLsb' 13 3).toNat = 1 ∧
    ((0xFFE1#16).extractLsb' 4 9).toNat * 2 ^ ((0xFFE1#16).extractLsb' 13 3).toNat = 65280 := by
  decide

theorem witness_ResultCodesAreTheTables :
    (decodeTelemetry defaultConfig.gcrMap 0x00000001).status ≠ .ok := by decide

theorem witness_TelemetryValuesFitAnI32 :
    (decodeTelemetry defaultConfig.gcrMap 0x0008BA4B).status = .ok := by decide

/-- Both clauses: the highest channel of the bus, and the first that does not exist. -/
theorem witness_SetThrottleWritesItsChannel :
    (3 : BitVec 4).toNat < fresh.bus.n ∧ fresh.ch[(3 : BitVec 4).toNat]? = some resetChannel ∧
    fresh.bus.n ≤ (4 : BitVec 4).toNat := by decide

/-- The clauses: save settings, info request and the largest command number on the highest channel,
and the first channel that does not exist. -/
theorem witness_SendCommandLoadsItsChannel :
    (47 : BitVec 11).toNat ≤ 47 ∧
    fresh.config.cmdSaveSettings ≠ fresh.config.cmdInfoRequest ∧
    (3 : BitVec 4).toNat < fresh.bus.n ∧ fresh.ch[(3 : BitVec 4).toNat]? = some resetChannel ∧
    (12 : BitVec 11) = fresh.config.cmdSaveSettings ∧
    (6 : BitVec 11) = fresh.config.cmdInfoRequest ∧
    (47 : BitVec 11) ≠ fresh.config.cmdSaveSettings ∧
    (47 : BitVec 11) ≠ fresh.config.cmdInfoRequest ∧
    fresh.bus.n ≤ (4 : BitVec 4).toNat := by decide

theorem witness_CommandsAbove47AreRefused : 47 < (48 : BitVec 11).toNat := by decide

theorem witness_HostCallsOverrideOnlyTheirChannel :
    ((∃ v, Instr.sendCommand 3 47 255 = .setThrottle 3 v) ∨
      (∃ cmd r, Instr.sendCommand 3 47 255 = .sendCommand 3 cmd r ∧ cmd.toNat ≤ 47)) ∧
    ((∃ v, Instr.setThrottle 3 0 = .setThrottle 3 v) ∨
      (∃ cmd r, Instr.setThrottle 3 0 = .sendCommand 3 cmd r ∧ cmd.toNat ≤ 47)) ∧
    (3 : BitVec 4).toNat < delayed.bus.n ∧ delayed.ch[(3 : BitVec 4).toNat]? = some resetChannel :=
  ⟨.inr ⟨47, 255, rfl, by decide⟩, .inl ⟨0, rfl⟩, by decide, by decide⟩

/-- Both clauses: the highest channel, and the first that does not exist. -/
theorem witness_ReadChannelReturnsTheRecord :
    fresh.ch.length = fresh.bus.n ∧ (3 : BitVec 4).toNat < fresh.bus.n ∧
    fresh.bus.n ≤ (4 : BitVec 4).toNat := by decide

theorem witness_ReadsMayBeRepeated :
    (∃ c, Instr.readChannel 15 = .readChannel c) ∨ Instr.readChannel 15 = .readBus := .inl ⟨15, rfl⟩

/-- The bus of four channels, and of one. -/
theorem witness_StartAdvancesTheRing :
    fresh.bus.phase = .idle ∧ fresh.ch.length = fresh.bus.n ∧
    fresh.bus.currentChannel < fresh.bus.n ∧ 1 < fresh.bus.n ∧
    single.bus.phase = .idle ∧ single.ch.length = single.bus.n ∧
    single.bus.currentChannel < single.bus.n ∧ single.bus.n = 1 := by decide

/-- Counters 0, 1 and 2 on the channel the START addresses. -/
theorem witness_StartCountsTheRepeatDown :
    (commanded 2).bus.phase = .idle ∧ (commanded 2).ch.length = (commanded 2).bus.n ∧
    (commanded 2).bus.currentChannel < (commanded 2).bus.n ∧
    addressedByStart (commanded 2) = 0 ∧
    fresh.ch[0]?.map Channel.repeatCounter = some 0 ∧
    (commanded 1).ch[0]?.map Channel.repeatCounter = some 1 ∧
    (commanded 2).ch[0]?.map (fun c => c.repeatCounter.toNat) = some 2 := by decide

/-- No deadline, a deadline at `now`, and one a microsecond later. -/
theorem witness_StartExpiresTheDelay :
    delayed.bus.phase = .idle ∧ delayed.ch.length = delayed.bus.n ∧
    delayed.bus.currentChannel < delayed.bus.n ∧ addressedByStart delayed = 0 ∧
    fresh.ch[0]?.map Channel.delayDeadline = some none ∧
    delayed.ch[0]?.map Channel.delayDeadline = some (some 12000) ∧
    (given delayed 12000 true 0).ports.now = 12000 ∧
    (given delayed 11999 true 0).ports.now < 12000 := by decide

/-- Submitting, delaying, and not ready. -/
theorem witness_StartSubmitsWhenReady :
    delayed.bus.phase = .idle ∧ delayed.ch.length = delayed.bus.n ∧
    delayed.bus.currentChannel < delayed.bus.n ∧
    (given delayed 12000 true 0).ports.txReady = true ∧
    (after .start (given delayed 12000 true 0)).map (fun t => t.ch[0]?.map Channel.delayDeadline)
      = some (some none) ∧
    (after .start (given delayed 11999 true 0)).map (fun t => t.ch[0]?.map Channel.delayDeadline)
      = some (some (some 12000)) ∧
    (given delayed 12000 false 0).ports.txReady = false := by decide

theorem witness_StartEndsAwaitingTheAnswer :
    fresh.bus.phase = .idle ∧ fresh.ch.length = fresh.bus.n ∧
    fresh.bus.currentChannel < fresh.bus.n := by decide

theorem witness_OneShotCommandsAreNeverSent :
    (47 : BitVec 11).toNat ≤ 47 ∧ fresh.bus.phase = .idle ∧ fresh.ch.length = fresh.bus.n ∧
    fresh.bus.currentChannel < fresh.bus.n ∧
    fresh.ch[(0 : BitVec 4).toNat]? = some resetChannel ∧
    (fresh.bus.currentChannel + 1) % fresh.bus.n = (0 : BitVec 4).toNat := by decide

/-- The hypotheses of the statements about a COMPLETE that has its word. -/
theorem witness_CompleteCountsExactlyOnce :
    (given started 2 false 0).bus.phase = .awaitRx ∧
    (given started 2 false 0).ch.length = (given started 2 false 0).bus.n ∧
    (given started 2 false 0).bus.currentChannel < (given started 2 false 0).bus.n ∧
    (given started 2 false 0).ports.rxPresented = true := by decide

/-- Both clauses: a word that decodes, and one that does not. -/
theorem witness_CompleteDispatchesTelemetry :
    (given started 2 false 0x000E64C9).bus.phase = .awaitRx ∧
    (given started 2 false 0x000E64C9).ports.rxPresented = true ∧
    (decodeTelemetry started.config.gcrMap 0x000E64C9).status = .ok ∧
    (decodeTelemetry started.config.gcrMap 0x000ED524).status ≠ .ok := by decide

/-- Both clauses, at the boundary of the idle threshold. -/
theorem witness_CompleteAppliesTheFailsafe :
    (given started 500001 false 0).bus.phase = .awaitRx ∧
    (given started 500001 false 0).ports.rxPresented = true ∧
    started.bus.lastCommandTime + 500000 < (given started 500001 false 0).ports.now ∧
    (given started 500000 false 0).ports.now ≤ started.bus.lastCommandTime + 500000 := by decide

theorem witness_CompleteEndsIdle :
    (given started 2 false 0).bus.phase = .awaitRx ∧
    (given started 2 false 0).ch.length = (given started 2 false 0).bus.n ∧
    (given started 2 false 0).bus.currentChannel < (given started 2 false 0).bus.n ∧
    (given started 2 false 0).ports.rxPresented = true := by decide

/-- The state after M1 with the receive bound 1000 and no word, at the time `now`. -/
def bounded (now : Nat) : State :=
  { started with
    ports := ⟨now, false, 0, false⟩
    config := { defaultConfig with rxWaitBound := some 1000 } }

/-- No bound; and the bound's two sides, a microsecond apart (the START was at 1). -/
theorem witness_CompleteWaitsForItsWord :
    ({ started with ports := ⟨2, false, 0, false⟩ } : State).ports.rxPresented = false ∧
    started.bus.phase = .awaitRx ∧ started.config.rxWaitBound = none ∧
    (bounded 1000).ports.rxPresented = false ∧ (bounded 1000).bus.phase = .awaitRx ∧
    (bounded 1000).ports.now < (bounded 1000).startTime + 1000 ∧
    (bounded 1001).startTime + 1000 ≤ (bounded 1001).ports.now ∧
    (bounded 1001).ch.length = (bounded 1001).bus.n ∧
    (bounded 1001).bus.currentChannel < (bounded 1001).bus.n := by decide

theorem witness_OutOfPhaseOperationsAreRefused :
    started.bus.phase = .awaitRx ∧ fresh.bus.phase = .idle := by decide

/-- The smallest and the largest legal arguments. -/
theorem witness_ResetLeavesTheTabledRegisters :
    ({ started with inputs := [.reset 16 65535 7] } : State).inputs = .reset 16 65535 7 :: [] ∧
    1 ≤ 16 ∧ 16 ≤ started.config.maxChannels ∧ 1 ≤ 1 ∧ 65535 ≤ 65535 := by decide

theorem witness_BadResetsAreRefused :
    ({ started with inputs := [.reset 17 600 7] } : State).inputs = .reset 17 600 7 :: [] ∧
    started.config.maxChannels < 17 := by decide

theorem witness_ResetForgetsTheRun :
    ({ started with inputs := [.reset 2 600 7] } : State).inputs = .reset 2 600 7 :: [] ∧
    ({ fresh with inputs := [.reset 2 600 7] } : State).inputs
      = ({ started with inputs := [.reset 2 600 7] } : State).inputs ∧
    fresh.config = started.config ∧ fresh.ch ≠ started.ch := by decide

theorem witness_BitPeriodIsTheSpeed :
    65535 ≤ 65535 ∧ (after .start (given fresh 1 true 0)).isSome = true := by decide

theorem witness_OperationsBeforeResetAreRefused :
    (facing (State.beforeReset defaultConfig []) (encode .start) 0).inputs
      = .op (encode .start) ⟨0, true, 0, true⟩ :: [] ∧
    (facing (State.beforeReset defaultConfig []) (encode .start) 0).constructed = false := by decide

theorem witness_TimeReversalIsRefused :
    (facing (given fresh 10 false 0) (encode .start) 9).inputs
      = .op (encode .start) ⟨9, true, 0, true⟩ :: [] ∧
    (given fresh 10 false 0).constructed = true ∧ decode (encode .start) = .ok .start ∧
    9 < (given fresh 10 false 0).ports.now := by decide

/-- A `now` equal to the previous one is admitted. -/
theorem witness_StepRunsTheDecodedOperation :
    (facing (given fresh 10 false 0) (encode .start) 10).inputs
      = .op (encode .start) ⟨10, true, 0, true⟩ :: [] ∧
    (given fresh 10 false 0).constructed = true ∧ decode (encode .start) = .ok .start ∧
    (given fresh 10 false 0).ports.now ≤ 10 := by decide

/-- A refused step, and the row that holds, for each of the six rows: X1, X5, X8, X9, X10 and an
operation before the first reset. -/
theorem witness_RefusalsAreTheTablesRows :
    stepStop (facing fresh 0x00000000 0) = some (.inr .illegalOp) ∧
    (∀ row ∈ opRows, 0x00000000#32 &&& row.mask ≠ row.bits) ∧
    stepStop (facing fresh 0x40000030 0) = some (.inr .commandRange) ∧
    0x40000030#32 &&& 0xF000F800 = 0x40000000 ∧ 47 < (immField 0x40000030).toNat ∧
    stepStop (facing started 0x50000000 1) = some (.inr .phaseOrder) ∧
    decode 0x50000000 = .ok .start ∧ started.bus.phase = .awaitRx ∧
    stepStop (facing fresh 0x60000000 0) = some (.inr .phaseOrder) ∧
    decode 0x60000000 = .ok .complete ∧ fresh.bus.phase = .idle ∧
    stepStop (facing (given fresh 10 false 0) 0x50000000 9) = some (.inr .timeReversal) ∧
    9 < (given fresh 10 false 0).ports.now ∧
    stepStop (facing (State.beforeReset defaultConfig []) 0x80000000 0)
      = some (.inr .beforeReset) ∧
    (State.beforeReset defaultConfig []).constructed = false ∧
    stepStop { fresh with inputs := [.reset 17 600 0] } = some (.inr .badConfig) ∧
    fresh.config.maxChannels < 17 := by decide

theorem witness_TickRunsStartThenComplete :
    ({ fresh with inputs := tick 1 true 0 2 } : State).inputs = tick 1 true 0 2 ++ [] ∧
    fresh.constructed = true ∧ fresh.ports.now ≤ 1 ∧ 1 ≤ 2 ∧ fresh.bus.phase = .idle ∧
    fresh.ch.length = fresh.bus.n ∧ fresh.bus.currentChannel < fresh.bus.n ∧
    (after .start { fresh with
      ports := ⟨1, true, 0, false⟩
      inputs := .op (encode .complete) ⟨2, false, 0, true⟩ :: [] }).isSome = true := by decide

theorem witness_RegisterAccessTable :
    (after .complete (given started 500001 false 0)).map (fun t => (t.ch[3]?).isSome) = some true ∧
    (started.ch[3]?).isSome = true := by decide

/-- Both delay-bearing commands on channel 3 of a bus with no deadline there. -/
theorem witness_DeadlinesComeFromDelayCommands :
    (after (.sendCommand 3 12 1) fresh).map (fun t => t.ch[3]?.map Channel.delayDeadline)
      = some (some (some 35000)) ∧
    (after (.sendCommand 3 6 1) fresh).map (fun t => t.ch[3]?.map Channel.delayDeadline)
      = some (some (some 12000)) ∧
    fresh.ch[3]?.map Channel.delayDeadline = some none := by decide

theorem witness_InvariantHoldsAfterReset :
    defaultConfig.Legal ∧ 1 ≤ 16 ∧ 16 ≤ defaultConfig.maxChannels ∧ 1 ≤ 65535 ∧ 65535 ≤ 65535 :=
  ⟨witness_legal, by decide⟩

theorem witness_StepKeepsTheInvariant :
    (facing fresh (encode .start) 1).Inv ∧ stepStop (facing fresh (encode .start) 1) = none :=
  ⟨witness_inv _, by decide⟩

theorem witness_OnlyTheReceiveWaitStops :
    stop .complete { started with ports := ⟨2, false, 0, false⟩ }
      = some (.inl .awaitingRxWord) := by decide

theorem witness_OutputsOnlyGrow :
    stepStop (facing fresh (encode .readBus) 1) = none ∧
    resetNext (facing fresh (encode .readBus) 1) = false := by decide

/-- A run of one START from the reset state. -/
theorem witness_RoundRobinIsFair :
    (facing fresh (encode .start) 1).Inv ∧ (facing fresh (encode .start) 1).constructed = true ∧
    ((facing fresh (encode .start) 1).inputs.take 1).all (fun x => !x.isReset) = true ∧
    (((facing fresh (encode .start) 1).inputs.take 1).filter Input.isStart).length = 1 ∧
    ∃ t, Sys2Proof.core.run 1 (facing fresh (encode .start) 1) = .next t :=
  ⟨witness_inv _, by decide, by decide, by decide, _, rfl⟩

/-- The bus after `SEND_COMMAND 0, 7, rep @ now=0`, with one START presented. -/
def commandedFacing (rep : BitVec 8) : State :=
  (after (.sendCommand 0 7 rep) (facing fresh (encode .start) 1)).getD fresh

/-- Both clauses: fewer STARTs than the count, and as many. -/
theorem witness_RepeatedCommandsStayForTheirCount :
    (facing fresh (encode .start) 1).Inv ∧ (0 : Nat) < (1 : BitVec 8).toNat ∧
    (0 : BitVec 4).toNat < fresh.bus.n ∧ fresh.ch[(0 : BitVec 4).toNat]? = some resetChannel ∧
    (after (.sendCommand 0 7 1) (facing fresh (encode .start) 1)).isSome = true ∧
    freeOf (disturbs 0) 1 (commandedFacing 1) = true ∧
    startsOn 0 1 (commandedFacing 2) < (2 : BitVec 8).toNat ∧
    (1 : BitVec 8).toNat ≤ startsOn 0 1 (commandedFacing 1) ∧
    stepStop (commandedFacing 1) = none ∧ stepStop (commandedFacing 2) = none :=
  ⟨witness_inv _, by decide⟩

/-- A run of no steps after the command, which leaves the START of the last clause to come. -/
theorem witness_ZeroRepeatCommandsStayResident :
    (facing fresh (encode .start) 1).Inv ∧
    (0 : BitVec 4).toNat < fresh.bus.n ∧ fresh.ch[(0 : BitVec 4).toNat]? = some resetChannel ∧
    (after (.sendCommand 0 7 0) (facing fresh (encode .start) 1)).isSome = true ∧
    freeOf (disturbs 0) 1 (commandedFacing 0) = true ∧
    (commandedFacing 0).inputs = .op (encode .start) ⟨1, true, 0, true⟩ :: [] ∧
    (commandedFacing 0).bus.phase = .idle ∧ (commandedFacing 0).ports.now ≤ 1 ∧
    addressedByStart (commandedFacing 0) = (0 : BitVec 4).toNat ∧
    (commandedFacing 0).ch[0]?.map Channel.delayDeadline = some none :=
  ⟨witness_inv _, by decide⟩

/-- The bus after an info request on channel 0 at 0, with one START at 11999 presented. -/
def delayedFacing : State :=
  (after (.sendCommand 0 6 5) (facing fresh (encode .start) 11999)).getD fresh

theorem witness_DelayedChannelsStaySilent :
    (facing fresh (encode .start) 11999).Inv ∧
    (6 : BitVec 11) = fresh.config.cmdInfoRequest ∧
    (after (.sendCommand 0 6 5) (facing fresh (encode .start) 11999)).isSome = true ∧
    freeOf (disturbs 0) 1 delayedFacing = true ∧ stepStop delayedFacing = none ∧
    11999 < fresh.ports.now + 12000 := ⟨witness_inv _, by decide⟩

/-- A START at 1 and a COMPLETE at 500001, on the bus of M11. -/
def idling : State :=
  { fresh with inputs := [.op (encode .start) ⟨1, true, 0, false⟩,
      .op (encode .complete) ⟨500001, false, 0, true⟩] }

theorem witness_IdleBusesAreNeutralised :
    idling.Inv ∧
    freeOf (fun x => hostCallNext x || resetNext x || failsafeNext x) 1 idling = true ∧
    (∃ t, Sys2Proof.core.run 1 idling = .next t ∧ t.bus.phase = .awaitRx ∧
      t.inputs = .op (encode .complete) ⟨500001, false, 0, true⟩ :: [] ∧ t.ports.now ≤ 500001) ∧
    idling.bus.lastCommandTime + 500000 < 500001 := by
  refine ⟨witness_inv _, by decide, ⟨_, rfl, ?_⟩, by decide⟩
  decide

end Sys2Proof.Tests
end

section
/-!
PROOFS. The register file (spec 10_state.md): what an operation that completes does to the state,
said once (`Effect`, `RecordWrite`), and from it who writes each register (R37), where deadlines
come from (R40 (I5)), and that reset establishes and every step keeps the invariant (R38, R40).
-/

namespace Sys2Proof.Machine

/-! ### The registers after each operation's writes -/

@[simp] theorem commandPath_ch (k : Nat) (cmd : BitVec 11) (rep : BitVec 8) (now : Nat)
    (s : State) : (commandPath k cmd rep now s).ch =
      s.ch.modify k (commandChannel s.config cmd rep now) := rfl

@[simp] theorem commandPath_bus (k : Nat) (cmd : BitVec 11) (rep : BitVec 8) (now : Nat)
    (s : State) : (commandPath k cmd rep now s).bus = { s.bus with lastCommandTime := now } := rfl

@[simp] theorem throttlePath_events (k : Nat) (v : BitVec 11) (now : Nat) (s : State) :
    (throttlePath k v now s).events = s.events := rfl

@[simp] theorem commandPath_events (k : Nat) (cmd : BitVec 11) (rep : BitVec 8) (now : Nat)
    (s : State) : (commandPath k cmd rep now s).events = s.events := rfl

@[simp] theorem serveChannel_ch (k : Nat) (c : Channel) (s : State) :
    (serveChannel k c s).ch = s.ch.modify k fun _ => served s.ports.now s.ports.txReady c := by
  rw [serveChannel_spec]; rfl

@[simp] theorem serveChannel_bus (k : Nat) (c : Channel) (s : State) :
    (serveChannel k c s).bus = s.bus := by
  rw [serveChannel_spec]

@[simp] theorem serveChannel_ports (k : Nat) (c : Channel) (s : State) :
    (serveChannel k c s).ports = s.ports := by
  rw [serveChannel_spec]

@[simp] theorem serveChannel_config (k : Nat) (c : Channel) (s : State) :
    (serveChannel k c s).config = s.config := by
  rw [serveChannel_spec]

/-- COMPLETE writes no bus register but `last_command_time` and the phase (R37). -/
theorem completeWith_bus (raw : Word) (s : State) :
    ∃ t, (completeWith raw s).bus = { s.bus with lastCommandTime := t, phase := .idle } := by
  obtain ⟨_, t, _, he⟩ := completeWith_any raw s
  exact ⟨t, by rw [he]⟩

@[simp] theorem completeWith_length (raw : Word) (s : State) :
    (completeWith raw s).ch.length = s.ch.length := by
  obtain ⟨_, _, _, he⟩ := completeWith_any raw s
  simp [he]

/-! ### What an operation that completes does -/

/-- What an operation can do where it completes, with the guards under which it does. `silent` are
ENCODE, DECODE and the reads, which return one result, and the host calls on a channel at or above
`N`, which return none (R216). -/
inductive Effect (s : State) : Instr → State → Prop
  | silent {i : Instr} (rs : List OpResult) (not_start : i ≠ .start)
      (not_complete : i ≠ .complete) (one_result : rs.length ≤ 1) :
      Effect s i { s with results := s.results ++ rs }
  | throttle (k : BitVec 4) (v : BitVec 11) (in_range : k.toNat < s.bus.n) :
      Effect s (.setThrottle k v) (throttlePath k.toNat v s.ports.now s)
  | command (k : BitVec 4) (cmd : BitVec 11) (rep : BitVec 8) (in_range : k.toNat < s.bus.n)
      (is_command : cmd.toNat ≤ cmdMax) :
      Effect s (.sendCommand k cmd rep) (commandPath k.toNat cmd rep s.ports.now s)
  | start (c : Channel) (idle : s.bus.phase = .idle)
      (record : s.ch[(advance s).bus.currentChannel]? = some c) :
      Effect s .start (awaitAnswer (serveChannel (advance s).bus.currentChannel c (advance s)))
  | complete (raw : Word) (c : Channel) (awaiting : s.bus.phase = .awaitRx)
      (word : receivedWord s = some raw) (record : s.ch[s.bus.currentChannel]? = some c) :
      Effect s .complete (completeWith raw s)

/-- A host call on a channel at or above `N` leaves the state alone (R216). -/
theorem Effect.unchanged {i : Instr} (s : State) (hs : i ≠ .start) (hc : i ≠ .complete) :
    Effect s i s := by
  simpa using Effect.silent (s := s) [] hs hc (by simp)

/-- Every operation that completes has one of these effects. -/
theorem exec_effect {i : Instr} {s t : State} (h : exec i s = .next t) : Effect s i t := by
  cases i with
  | encode p b => cases h; exact .silent [_] nofun nofun le_rfl
  | decode => cases h; exact .silent [_] nofun nofun le_rfl
  | readChannel c => cases h; exact .silent [_] nofun nofun le_rfl
  | readBus => cases h; exact .silent [_] nofun nofun le_rfl
  | setThrottle k v =>
    simp only [exec, execSetThrottle] at h
    split at h
    · cases h; exact .throttle k v (by simpa [inRange] using ‹inRange k s = true›)
    · cases h; exact .unchanged s nofun nofun
  | sendCommand k cmd rep =>
    simp only [exec, execSendCommand] at h
    split at h
    · split at h
      · cases h; exact .command k cmd rep (by simpa [inRange] using ‹inRange k s = true›) ‹_›
      · cases h; exact .unchanged s nofun nofun
    · cases h
  | start =>
    obtain ⟨idle, c, record, rfl⟩ := exec_start_inv h
    exact .start c idle record
  | complete =>
    obtain ⟨awaiting, raw, c, word, record, rfl⟩ := exec_complete_inv h
    exact .complete raw c awaiting word record

/-! ### Who writes each bus register (R37) -/

section
variable {i : Instr} {s t : State}

theorem exec_bitPeriodCycles (h : exec i s = .next t) :
    t.bus.bitPeriodCycles = s.bus.bitPeriodCycles := by
  cases exec_effect h with
  | silent | throttle | command | start => simp
  | complete raw => obtain ⟨_, hb⟩ := completeWith_bus raw s; rw [hb]

theorem exec_length (h : exec i s = .next t) : t.ch.length = s.ch.length := by
  cases exec_effect h <;> simp

/-- Only START writes `current_channel` and `tx_select`. -/
theorem exec_pointer (h : exec i s = .next t) (hs : i ≠ .start) :
    t.bus.currentChannel = s.bus.currentChannel ∧ t.bus.txSelect = s.bus.txSelect := by
  cases exec_effect h with
  | silent | throttle | command => simp
  | start => exact absurd rfl hs
  | complete raw => obtain ⟨_, hb⟩ := completeWith_bus raw s; simp [hb]

/-- Only START and COMPLETE write the phase and emit events. -/
theorem exec_phase_events (h : exec i s = .next t) (hs : i ≠ .start) (hc : i ≠ .complete) :
    t.bus.phase = s.bus.phase ∧ t.events = s.events := by
  cases exec_effect h with
  | silent | throttle | command => simp
  | start => exact absurd rfl hs
  | complete => exact absurd rfl hc

/-- Only SET_THROTTLE, SEND_COMMAND and COMPLETE write `last_command_time`. -/
theorem exec_lastCommandTime (h : exec i s = .next t) (hv : ∀ k v, i ≠ .setThrottle k v)
    (hm : ∀ k cmd rep, i ≠ .sendCommand k cmd rep) (hc : i ≠ .complete) :
    t.bus.lastCommandTime = s.bus.lastCommandTime := by
  cases exec_effect h with
  | silent | start => simp
  | throttle k v => exact absurd rfl (hv k v)
  | command k cmd rep => exact absurd rfl (hm k cmd rep)
  | complete => exact absurd rfl hc

/-- ENCODE, DECODE and the reads write no register. -/
theorem exec_reads {p : BitVec 11} {b : BitVec 1} {c : BitVec 4} (h : exec i s = .next t)
    (hi : i = .encode p b ∨ i = .decode ∨ i = .readChannel c ∨ i = .readBus) :
    t.ch = s.ch ∧ t.bus = s.bus := by
  obtain rfl | rfl | rfl | rfl := hi <;> cases h <;> exact ⟨rfl, rfl⟩

end

/-! ### What an operation makes of one record -/

/-- What an operation makes of a channel's record `c`, where `addressed` says that the channel is
the addressed one after the operation. -/
inductive RecordWrite (s : State) (j : Nat) (addressed : Prop) (c : Channel) :
    Instr → Channel → Prop
  | kept {i : Instr} : RecordWrite s j addressed c i c
  | throttled (k : BitVec 4) (v : BitVec 11) (own : k.toNat = j) :
      RecordWrite s j addressed c (.setThrottle k v) (throttleChannel v c)
  | commanded (k : BitVec 4) (cmd : BitVec 11) (rep : BitVec 8) (own : k.toNat = j) :
      RecordWrite s j addressed c (.sendCommand k cmd rep)
        (commandChannel s.config cmd rep s.ports.now c)
  | served (own : addressed) :
      RecordWrite s j addressed c .start (served s.ports.now s.ports.txReady c)
  | counted (status : Status) (own : addressed) :
      RecordWrite s j addressed c .complete (countRx status c)
  | neutralized : RecordWrite s j addressed c .complete (throttleChannel 0 c)
  | countedNeutralized (status : Status) (own : addressed) :
      RecordWrite s j addressed c .complete (throttleChannel 0 (countRx status c))

/-- The record at `j` after a write at `k`. -/
theorem record_of_modify {l : List Channel} {k j : Nat} {f : Channel → Channel} {c c' : Channel}
    (hc : l[j]? = some c) (hc' : (l.modify k f)[j]? = some c') :
    c' = c ∨ k = j ∧ c' = f c := by
  rw [List.getElem?_modify, hc] at hc'
  by_cases hk : k = j
  · exact .inr ⟨hk, by simpa [hk] using hc'.symm⟩
  · exact .inl (by simpa [hk] using hc'.symm)

/-- COMPLETE counts on the addressed record, and may then neutralise any record (R178, R180). -/
theorem completeWith_record {raw : Word} {s : State} {j : Nat} {c c' : Channel}
    (hc : s.ch[j]? = some c) (hc' : (completeWith raw s).ch[j]? = some c') :
    RecordWrite s j (j = (completeWith raw s).bus.currentChannel) c .complete c' := by
  obtain ⟨g, _, hg, he⟩ := completeWith_any raw s
  simp only [he, List.getElem?_mapIdx, hc, Option.map_some, Option.some.injEq] at hc' ⊢
  subst hc'
  split
  · rename_i hj
    obtain hk | hk := hg j (countRx (decodeTelemetry s.config.gcrMap raw).status c)
    · rw [hk]; exact .counted _ hj
    · rw [hk]; exact .countedNeutralized _ hj
  · obtain hk | hk := hg j c
    · rw [hk]; exact .kept
    · rw [hk]; exact .neutralized

/-- Every operation that completes leaves each record as one of these writes makes it. -/
theorem exec_record {i : Instr} {s t : State} {j : Nat} {c c' : Channel} (h : exec i s = .next t)
    (hc : s.ch[j]? = some c) (hc' : t.ch[j]? = some c') :
    RecordWrite s j (j = t.bus.currentChannel) c i c' := by
  cases exec_effect h with
  | silent =>
    obtain rfl : c = c' := by simpa [hc] using hc'
    exact .kept
  | throttle k v =>
    obtain rfl | ⟨hk, rfl⟩ := record_of_modify hc hc'
    · exact .kept
    · exact .throttled k v hk
  | command k cmd rep =>
    obtain rfl | ⟨hk, rfl⟩ := record_of_modify hc hc'
    · exact .kept
    · exact .commanded k cmd rep hk
  | start c₀ _ record =>
    simp only [awaitAnswer_ch, serveChannel_ch, advance_ch, advance_ports] at hc'
    obtain rfl | ⟨hk, rfl⟩ := record_of_modify hc hc'
    · exact .kept
    · obtain rfl : c₀ = c := by simpa [hk, hc] using record.symm
      exact .served (by simpa using hk.symm)
  | complete raw => exact completeWith_record hc hc'

/-! ### Who writes each channel register (R37) -/

section
variable {s : State} {j : Nat} {a : Prop} {c c' : Channel} {i : Instr}

/-- Only START on the addressed channel counts a submission. -/
theorem RecordWrite.txFrames (h : RecordWrite s j a c i c') (hi : i ≠ .start ∨ ¬a) :
    c'.txFrames = c.txFrames := by
  cases h with
  | served own => exact absurd own (by simpa using hi)
  | kept | throttled | commanded | neutralized => simp
  | counted | countedNeutralized => simp [countRx_spec]

/-- Only COMPLETE on the addressed channel counts an answer. -/
theorem RecordWrite.rxCounters (h : RecordWrite s j a c i c') (hi : i ≠ .complete ∨ ¬a) :
    c'.rxFrames = c.rxFrames ∧ c'.rxTimeout = c.rxTimeout ∧ c'.rxBadGcr = c.rxBadGcr ∧
      c'.rxBadCrc = c.rxBadCrc ∧ c'.rxBadType = c.rxBadType := by
  cases h with
  | counted _ own | countedNeutralized _ own => exact absurd own (by simpa using hi)
  | kept | throttled | commanded | served | neutralized => simp

/-- Only SET_THROTTLE on the channel and the failsafe write `last_throttle_frame`. -/
theorem RecordWrite.lastThrottleFrame (h : RecordWrite s j a c i c')
    (hv : ∀ k v, i = .setThrottle k v → k.toNat ≠ j) (hc : i ≠ .complete) :
    c'.lastThrottleFrame = c.lastThrottleFrame := by
  cases h with
  | throttled k v own => exact absurd own (hv k v rfl)
  | kept | commanded | served => simp
  | counted | neutralized | countedNeutralized => exact absurd rfl hc

/-- A record no host call and no START is about, and no COMPLETE, stands. -/
theorem RecordWrite.eq_of_not_own (h : RecordWrite s j a c i c')
    (hv : ∀ k v, i = .setThrottle k v → k.toNat ≠ j)
    (hm : ∀ k cmd rep, i = .sendCommand k cmd rep → k.toNat ≠ j)
    (hs : i = .start → ¬a) (hc : i ≠ .complete) : c' = c := by
  cases h with
  | kept => rfl
  | throttled k v own => exact absurd own (hv k v rfl)
  | commanded k cmd rep own => exact absurd own (hm k cmd rep rfl)
  | served own => exact absurd own (hs rfl)
  | counted | neutralized | countedNeutralized => exact absurd rfl hc

/-- Expiry clears a deadline and never sets one (R173). -/
theorem expireDelay_deadline {now d : Nat} (h : (expireDelay now c).delayDeadline = some d) :
    c.delayDeadline = some d := by
  unfold expireDelay at h
  split at h
  · split at h
    · cases h
    · exact h
  · exact h

/-- The delay policy sets a deadline for the two delay-bearing commands alone (R212). -/
theorem delayFor_eq_some {cfg : Config} {cmd : BitVec 11} {now d : Nat}
    (h : delayFor cfg cmd now = some d) :
    (cmd = cfg.cmdSaveSettings ∧ d = now + tSaveDelay) ∨
      (cmd = cfg.cmdInfoRequest ∧ d = now + tInfoDelay) := by
  unfold delayFor at h
  split at h
  · exact .inl ⟨‹_›, by simpa using h.symm⟩
  · split at h
    · exact .inr ⟨‹_›, by simpa using h.symm⟩
    · cases h

/-- A new deadline is one the delay policy gives a SEND_COMMAND on the channel. -/
theorem RecordWrite.new_deadline {d : Nat} (h : RecordWrite s j a c i c')
    (hd : c'.delayDeadline = some d) (hn : c.delayDeadline ≠ some d) :
    ∃ k cmd rep, i = .sendCommand k cmd rep ∧ k.toNat = j ∧
      delayFor s.config cmd s.ports.now = some d := by
  cases h with
  | commanded k cmd rep own => exact ⟨k, cmd, rep, rfl, own, hd⟩
  | kept => exact absurd hd hn
  | throttled | neutralized | countedNeutralized => cases hd
  | served => exact absurd (expireDelay_deadline (by simpa using hd)) hn
  | counted => exact absurd (by simpa [countRx_spec] using hd) hn

end

/-! ### The invariant -/

/-- The parameters `State.reset` is built with are legal (R7, R87, R212). -/
theorem defaultConfig_legal : defaultConfig.Legal :=
  ⟨by decide, by decide, by decide, by decide, by decide⟩

/-- `25 * SPEED_KHZ * 40 / 1000 = SPEED_KHZ`, which fits the register (R29). -/
theorem bitPeriod_toNat {speedKhz : Nat} (h : speedKhz ≤ 65535) :
    (bitPeriod speedKhz).toNat = speedKhz := by
  rw [bitPeriod, BitVec.toNat_ofNat]
  omega

/-- A legal reset gives a bus that runs soundly (R38). -/
theorem afterReset_running {cfg : Config} {n speedKhz : Nat} (t0 : Nat) (rest : List Input)
    (hn : 1 ≤ n) (hm : n ≤ cfg.maxChannels) (hs : 1 ≤ speedKhz) (hs' : speedKhz ≤ 65535) :
    (State.afterReset cfg n speedKhz t0 rest).Running where
  n_pos := hn
  n_le := hm
  records := by simp [resetBusRegisters]
  pointer := Nat.sub_lt hn Nat.one_pos
  select_lt := Nat.sub_lt hn Nat.one_pos
  select_follows := nofun
  period := by
    show 1 ≤ (bitPeriod speedKhz).toNat ∧ (bitPeriod speedKhz).toNat ≤ 65535
    rw [bitPeriod_toNat hs']
    exact ⟨hs, hs'⟩
  command_past := le_rfl
  start_past := le_rfl
  channels := fun _ hc => List.eq_of_mem_replicate hc ▸ resetChannel_sound _

/-- So a legal reset meets the invariant where the parameters are legal. -/
theorem afterReset_inv {cfg : Config} {n speedKhz : Nat} (t0 : Nat) (rest : List Input)
    (hl : cfg.Legal) (hn : 1 ≤ n) (hm : n ≤ cfg.maxChannels) (hs : 1 ≤ speedKhz)
    (hs' : speedKhz ≤ 65535) : (State.afterReset cfg n speedKhz t0 rest).Inv :=
  ⟨hl, fun _ => afterReset_running t0 rest hn hm hs hs'⟩

section
variable {s : State}

/-- A running bus stays one when the next operation's ports stand at the block (R283). -/
theorem presented_running {p : Ports} (rest : List Input) (h : s.Running)
    (hp : s.ports.now ≤ p.now) : (presented p rest s).Running :=
  { h with
    command_past := h.command_past.trans hp
    start_past := h.start_past.trans hp
    channels := fun c hc => (h.channels c hc).mono hp }

theorem throttlePath_running (k : Nat) (v : BitVec 11) (h : s.Running) :
    (throttlePath k v s.ports.now s).Running :=
  { h with
    records := by simpa using h.records
    command_past := le_rfl
    channels := forall_mem_modify h.channels fun c _ => throttleChannel_sound v _ c }

theorem commandPath_running (k : Nat) {cmd : BitVec 11} (rep : BitVec 8)
    (hcmd : cmd.toNat ≤ cmdMax) (h : s.Running) :
    (commandPath k cmd rep s.ports.now s).Running :=
  { h with
    records := by simpa using h.records
    command_past := le_rfl
    channels := forall_mem_modify h.channels fun c hc =>
      commandChannel_sound hcmd s.config rep (h.channels c hc) }

/-- After advance `tx_select` is the pointer: both moved, or `N = 1` and both are 0 (R31, R171). -/
theorem advance_txSelect (h : s.Running) :
    (advance s).bus.txSelect = (advance s).bus.currentChannel := by
  have hp := h.pointer
  have hs := h.select_lt
  rw [advance_bus]
  split
  · rfl
  · omega

theorem start_running {c : Channel} (h : s.Running)
    (hc : s.ch[(advance s).bus.currentChannel]? = some c) :
    (awaitAnswer (serveChannel (advance s).bus.currentChannel c (advance s))).Running where
  n_pos := by simpa using h.n_pos
  n_le := by simpa using h.n_le
  records := by simpa using h.records
  pointer := by simpa using advance_pointer_lt s h.pointer
  select_lt := by simpa [advance_txSelect h] using advance_pointer_lt s h.pointer
  select_follows := fun _ => by simpa using advance_txSelect h
  period := by simpa using h.period
  command_past := by simpa using h.command_past
  start_past := by simp [opNow]
  channels := by
    simpa using forall_mem_modify h.channels fun _ _ =>
      served_sound s.ports.now s.ports.txReady (h.channels c (List.mem_of_getElem? hc))

theorem completeWith_running (raw : Word) (h : s.Running) : (completeWith raw s).Running := by
  rw [completeWith_spec raw s h.records h.pointer]
  refine { h with records := ?_, select_follows := nofun, command_past := ?_, channels := ?_ }
  · simpa using h.records
  · dsimp only
    split
    · exact le_rfl
    · exact h.command_past
  · have counted := forall_mem_modify (k := s.bus.currentChannel) h.channels fun c hc =>
      countRx_sound (decodeTelemetry s.config.gcrMap raw).status (h.channels c hc)
    intro c hc
    obtain ⟨c₀, hc₀, rfl⟩ := List.mem_map.mp hc
    split
    · exact throttleChannel_sound 0 _ c₀
    · exact counted c₀ hc₀

/-- Every operation that completes keeps a running bus running. -/
theorem exec_running {i : Instr} {t : State} (h : exec i s = .next t) (hs : s.Running) :
    t.Running := by
  cases exec_effect h with
  | silent => exact { hs with }
  | throttle k v => exact throttlePath_running k.toNat v hs
  | command k cmd rep _ is_command => exact commandPath_running k.toNat rep is_command hs
  | start c _ record => exact start_running hs record
  | complete raw => exact completeWith_running raw hs

end

/-- The arguments a reset accepts (R270). -/
theorem resetArgsLegal_iff {cfg : Config} {n speedKhz : Nat} :
    resetArgsLegal cfg n speedKhz = true ↔
      1 ≤ n ∧ n ≤ cfg.maxChannels ∧ 1 ≤ speedKhz ∧ speedKhz ≤ 65535 := by
  simp [resetArgsLegal]

/-! ### The obligations -/

/-- Settles O51: an admitted operation runs at a later `now` and keeps a running bus running, and
a reset gives a running bus. -/
theorem stepKeepsTheInvariant : Obligations.StepKeepsTheInvariant := by
  intro s s' hinv h
  obtain ⟨w, p, rest, i, _, hcon, _, hnow, hex⟩ | ⟨n, speedKhz, t0, rest, _, hargs, rfl⟩ :=
    step_inv h
  · obtain ⟨hconfig, _⟩ := exec_keeps hex
    have hrun := presented_running rest (hinv.running hcon) hnow
    exact ⟨by simpa [hconfig] using hinv.legal, fun _ => exec_running hex hrun⟩
  · obtain ⟨hn, hm, hs, hs'⟩ := resetArgsLegal_iff.mp hargs
    exact afterReset_inv t0 rest hinv.legal hn hm hs hs'

/-- Settles O42: `25 * 40 = 1000`, and no operation's effect writes the register. -/
theorem bitPeriodIsTheSpeed : Obligations.BitPeriodIsTheSpeed :=
  ⟨fun _ _ _ _ _ hs => bitPeriod_toNat hs, fun _ _ _ h => exec_bitPeriodCycles h⟩

/-- Settles O48, register by register. -/
theorem registerAccessTable : Obligations.RegisterAccessTable := by
  intro i s t h
  obtain ⟨hconfig, hcon, _, _, hn⟩ := exec_keeps h
  refine ⟨hn, exec_bitPeriodCycles h, hconfig, hcon, exec_length h, exec_pointer h,
    exec_phase_events h, exec_lastCommandTime h, fun _ _ _ => exec_reads h, ?_⟩
  intro j c c' hc hc'
  have hw := exec_record h hc hc'
  exact ⟨hw.txFrames, hw.rxCounters, hw.lastThrottleFrame, hw.eq_of_not_own⟩

/-- Settles O49: of the writes to a record only SEND_COMMAND's can set a deadline. -/
theorem deadlinesComeFromDelayCommands : Obligations.DeadlinesComeFromDelayCommands := by
  intro i s t j c c' d h hc hc' hd hnew
  obtain ⟨k, cmd, rep, hi, hk, hdelay⟩ := (exec_record h hc hc').new_deadline hd hnew
  exact ⟨k, cmd, rep, hi, hk, delayFor_eq_some hdelay⟩

/-- Settles O39: the step is the reset, and its state holds the table's values. -/
theorem resetLeavesTheTabledRegisters : Obligations.ResetLeavesTheTabledRegisters := by
  intro s n speedKhz t0 rest hin hn hm hs hs'
  have hargs : resetArgsLegal s.config n speedKhz = true :=
    resetArgsLegal_iff.mpr ⟨hn, hm, hs, hs'⟩
  have hneutral : neutralFrame = 0x000F := by decide
  refine ⟨State.afterReset s.config n speedKhz t0 rest, ?_, ?_, rfl, rfl, rfl, rfl, rfl⟩
  · simp [step, hin, consume, resetBus, hargs]
  · simp [resetChannel, hneutral]

/-- Settles O50; the arguments of `State.reset` are legal ones. -/
theorem invariantHoldsAfterReset : Obligations.InvariantHoldsAfterReset :=
  ⟨fun _ _ _ t0 rest hl hn hm hs hs' => afterReset_inv t0 rest hl hn hm hs hs',
    afterReset_inv 0 [] defaultConfig_legal (by decide) (by decide) (by decide) (by decide)⟩

end Sys2Proof.Machine
end

section
/-!
PROOFS. The host interface (spec 20_memory.md): an admitted word runs its meaning (R64, R69), reads
may be repeated (R63), the outputs only grow (R65), and COMPLETE waits for its word (R66).
-/

namespace Sys2Proof.Machine

/-! ### The outputs of an operation that completes (R65) -/

section
variable {i : Instr} {s t : State}

/-- START's events are a `Select` or none and then a `Submit` or none; COMPLETE's a `Telemetry` or
none. -/
theorem exec_events_extend (h : exec i s = .next t) : ∃ es, t.events = s.events ++ es := by
  cases exec_effect h with
  | silent | throttle | command => exact ⟨[], by simp⟩
  | start c =>
    rw [awaitAnswer_events, serveChannel_spec, advance_events]
    exact ⟨_, List.append_assoc ..⟩
  | complete raw =>
    obtain ⟨_, _, _, he⟩ := completeWith_any raw s
    exact ⟨_, by rw [he]⟩

/-- SET_THROTTLE, SEND_COMMAND, START and COMPLETE return no result, the four others one. -/
theorem exec_results_extend (h : exec i s = .next t) :
    ∃ rs, t.results = s.results ++ rs ∧ rs.length ≤ 1 := by
  cases exec_effect h with
  | silent rs _ _ one_result => exact ⟨rs, rfl, one_result⟩
  | throttle | command => exact ⟨[], by simp [throttlePath_frame, commandPath_frame]⟩
  | start => exact ⟨[], by simp [serveChannel_spec]⟩
  | complete raw =>
    obtain ⟨_, _, _, he⟩ := completeWith_any raw s
    exact ⟨[], by simp [he]⟩

end

/-! ### COMPLETE's wait (R66, R177) -/

section
variable {s : State}

theorem rxWaitExpired_iff : rxWaitExpired s = true ↔
    ∃ d, s.config.rxWaitBound = some d ∧ s.startTime + d ≤ s.ports.now := by
  unfold rxWaitExpired
  cases s.config.rxWaitBound with
  | none => simp
  | some d => exact decide_eq_true_iff.trans (by simp [opNow])

/-- COMPLETE has no word exactly where none is presented and no bound has run out. -/
theorem receivedWord_eq_none_iff : receivedWord s = none ↔
    s.ports.rxPresented = false ∧
      ∀ d, s.config.rxWaitBound = some d → s.ports.now < s.startTime + d := by
  cases hp : s.ports.rxPresented with
  | true => simp [receivedWord, hp]
  | false =>
    calc receivedWord s = none
      _ ↔ ¬rxWaitExpired s = true := by simp [receivedWord, hp]
      _ ↔ _ := by rw [rxWaitExpired_iff]; simp

theorem receivedWord_presented (h : s.ports.rxPresented = true) :
    receivedWord s = some s.ports.rxWord := by
  simp [receivedWord, opRxWord, h]

/-- Where the bound has run out with no word presented, the word is 0. -/
theorem receivedWord_expired {d : Nat} (hp : s.ports.rxPresented = false)
    (hb : s.config.rxWaitBound = some d) (hd : s.startTime + d ≤ s.ports.now) :
    receivedWord s = some 0 := by
  simp [receivedWord, hp, rxWaitExpired_iff.mpr ⟨d, hb, hd⟩]

/-- COMPLETE has no step until it has its word. -/
theorem exec_complete_waiting (hp : s.bus.phase = .awaitRx) (hr : receivedWord s = none) :
    exec .complete s = .fault .awaitingRxWord := by
  simp [exec, execComplete, completeCycle, hp, hr]

/-- Once it has its word, COMPLETE reads of the ports `now` alone, and writes none of them. -/
theorem completeWith_ports (raw : Word) {p : Ports} (hnow : p.now = s.ports.now)
    (hl : s.ch.length = s.bus.n) (hk : s.bus.currentChannel < s.bus.n) :
    completeWith raw s = { completeWith raw { s with ports := p } with ports := s.ports } := by
  rw [completeWith_spec raw s hl hk, completeWith_spec raw { s with ports := p } hl hk]
  simp only [hnow]

end

/-! ### The obligations -/

/-- Settles O37: with no word presented COMPLETE's word is none before the bound and 0 from it on,
and what it does with its word reads neither of the receive ports. -/
theorem completeWaitsForItsWord : Obligations.CompleteWaitsForItsWord := by
  intro s hphase hnone
  refine ⟨fun hb => ?_, fun d hb => ⟨fun hlt => ?_, fun hle hl hk => ?_⟩⟩
  · exact exec_complete_waiting hphase (receivedWord_eq_none_iff.mpr ⟨hnone, by simp [hb]⟩)
  · exact exec_complete_waiting hphase
      (receivedWord_eq_none_iff.mpr ⟨hnone, by simpa [hb] using hlt⟩)
  · refine ⟨_, exec_complete_next _ 0 hphase hl hk (receivedWord_presented rfl), ?_⟩
    rw [exec_complete_next s 0 hphase hl hk (receivedWord_expired hnone hb hle)]
    exact congrArg _ (completeWith_ports 0 rfl hl hk)

/-- Settles O53: a step that is no reset is an operation, which only appends. -/
theorem outputsOnlyGrow : Obligations.OutputsOnlyGrow := by
  intro s s' h hreset
  obtain ⟨w, p, rest, i, _, _, _, _, hex⟩ | ⟨n, speedKhz, t0, rest, hin, _⟩ := step_inv h
  · exact ⟨by simpa using exec_events_extend hex, by simpa using exec_results_extend hex⟩
  · simp [resetNext, hin, Input.isReset] at hreset

/-- Settles O26: a read's value depends on registers alone, and it writes none. -/
theorem readsMayBeRepeated : Obligations.ReadsMayBeRepeated := by
  rintro i s (⟨c, rfl⟩ | rfl)
  · exact ⟨.channel (if inRange c s then s.ch[c.toNat]? else none), rfl,
      by simp [exec, execReadChannel, returnResult, inRange]⟩
  · exact ⟨.bus s.bus, rfl, by simp [exec, execReadBus, returnResult]⟩

/-- Settles O45: the step on an admitted operation. -/
theorem stepRunsTheDecodedOperation : Obligations.StepRunsTheDecodedOperation :=
  fun _ _ _ _ _ hin hcon hdec hnow => step_admitted hin hcon hdec hnow

end Sys2Proof.Machine
end

section
/-!
PROOFS. The operation word (spec 30_encoding.md): the fields of a word (R91), which words select a
row of the table (R92), and from them that decoder and encoder are inverse to each other (R93) and
which words are refused (R94). Then the wire word, the telemetry word's bits, map and result codes
(R82 to R90), and what TICK runs (R96).
-/

namespace Sys2Proof

open Laws.SelectsItsRow (Statement find_of_selects)

/-! ### The fields of a word (R91) -/

/-- A word is its opcode, its operand fields and the bits 15:12 between them. -/
theorem word_fields (w : Word) :
    w = w.extractLsb' 28 4 ++ chField w ++ repField w ++ w.extractLsb' 12 4 ++ tField w ++
      immField w := by
  apply BitVec.eq_of_getLsbD_eq
  intro i hi
  simp only [chField, repField, tField, immField, BitVec.getLsbD_append,
    BitVec.getLsbD_extractLsb']
  interval_cases i <;> simp

/-- A field that a row's mask covers has the row's value in every word that selects the row. -/
theorem field_of_selects {r : OpRow} {w : Word} (h : r.selects w = true) {k n : Nat}
    (hm : r.mask.extractLsb' k n = BitVec.allOnes n) :
    w.extractLsb' k n = r.bits.extractLsb' k n := by
  have masked : w &&& r.mask = r.bits := by simpa [OpRow.selects] using h
  rw [← masked, BitVec.extractLsb'_and, hm, BitVec.and_allOnes]

/-- Two words are equal where their opcodes and their bits 27:0 are. -/
theorem word_eq_iff_opcode_low {v w : Word} :
    v = w ↔ v.extractLsb' 28 4 = w.extractLsb' 28 4 ∧ v &&& 0x0FFFFFFF = w &&& 0x0FFFFFFF := by
  refine ⟨by rintro rfl; exact ⟨rfl, rfl⟩, fun ⟨hop, hlow⟩ => ?_⟩
  apply BitVec.eq_of_getLsbD_eq
  intro i hi
  by_cases hlt : i < 28
  · have bit := congrArg (BitVec.getLsbD · i) hlow
    have mask : (0x0FFFFFFF#32).getLsbD i = true := by
      have low : ∀ i < 28, (0x0FFFFFFF#32).getLsbD i = true := by decide
      exact low i hlt
    simpa [mask] using bit
  · have bit := congrArg (BitVec.getLsbD · (i - 28)) hop
    have e : 28 + (i - 28) = i := by omega
    have l : i - 28 < 4 := by omega
    simpa [e, l] using bit

/-- A word selects a row exactly when it has the row's opcode and all the row's must-be-zero bits
clear (R92). -/
theorem selects_iff {r : OpRow} (hr : r ∈ opRows) {w : Word} :
    r.selects w = true ↔
      (w.extractLsb' 28 4).toNat = (r.bits.extractLsb' 28 4).toNat ∧
        w &&& (r.mask &&& 0x0FFFFFFF) = 0 := by
  have row : ∀ r ∈ opRows, r.mask.extractLsb' 28 4 = BitVec.allOnes 4 ∧
      r.bits &&& 0x0FFFFFFF = 0 := by decide
  obtain ⟨hmask, hbits⟩ := row r hr
  rw [OpRow.selects, beq_iff_eq, word_eq_iff_opcode_low, BitVec.extractLsb'_and, hmask,
    BitVec.and_allOnes, hbits, BitVec.and_assoc, BitVec.toNat_inj]

/-! ### What the decoder answers -/

/-- The decoder on a word that selects a row. -/
theorem decode_of_selects {r : OpRow} (hr : r ∈ opRows) {w : Word} (h : r.selects w = true) :
    decode w = if (assemble r.mnemonic w).wellFormed then .ok (assemble r.mnemonic w)
      else .error .commandRange := by
  rw [decode, find_of_selects hr h]

/-- The decoder's three answers: no row, the selected row's operation, or a missed constraint. -/
theorem decode_cases (w : Word) :
    ((∀ r ∈ opRows, ¬r.selects w = true) ∧ decode w = .error .illegalOp) ∨
    ∃ r ∈ opRows, r.selects w = true ∧
      ((assemble r.mnemonic w).wellFormed = true ∧ decode w = .ok (assemble r.mnemonic w) ∨
        (assemble r.mnemonic w).wellFormed = false ∧ decode w = .error .commandRange) := by
  by_cases h : ∃ r ∈ opRows, r.selects w = true
  · obtain ⟨r, hr, hs⟩ := h
    refine .inr ⟨r, hr, hs, ?_⟩
    rw [decode_of_selects hr hs]
    cases (assemble r.mnemonic w).wellFormed <;> simp
  · have hnone : ∀ r ∈ opRows, ¬r.selects w = true := fun r hr hs => h ⟨r, hr, hs⟩
    exact .inl ⟨hnone, by rw [decode, List.find?_eq_none.mpr hnone]⟩

theorem decode_eq_ok_iff {w : Word} {i : Instr} : decode w = .ok i ↔
    ∃ r ∈ opRows, r.selects w = true ∧ assemble r.mnemonic w = i ∧ i.wellFormed = true := by
  constructor
  · intro h
    obtain ⟨-, hd⟩ | ⟨r, hr, hs, ⟨hw, hd⟩ | ⟨-, hd⟩⟩ := decode_cases w
    · cases hd.symm.trans h
    · cases hd.symm.trans h
      exact ⟨r, hr, hs, rfl, hw⟩
    · cases hd.symm.trans h
  · rintro ⟨r, hr, hs, rfl, hw⟩
    rw [decode_of_selects hr hs, if_pos hw]

theorem decode_eq_illegalOp_iff {w : Word} :
    decode w = .error .illegalOp ↔ ∀ r ∈ opRows, ¬r.selects w = true := by
  obtain ⟨hnone, hd⟩ | ⟨r, hr, hs, ⟨-, hd⟩ | ⟨-, hd⟩⟩ := decode_cases w
  · exact iff_of_true hd hnone
  all_goals exact iff_of_false (by simp [hd]) fun hnone => hnone r hr hs

/-- Of the words that select a row only those of SEND_COMMAND can miss the extra constraint
(R92). -/
theorem decode_eq_commandRange_iff {w : Word} : decode w = .error .commandRange ↔
    (⟨.SEND_COMMAND, 0x40000000, 0xF000F800⟩ : OpRow).selects w = true ∧
      47 < (immField w).toNat := by
  have missed : decode w = .error .commandRange ↔
      ∃ r ∈ opRows, r.selects w = true ∧ (assemble r.mnemonic w).wellFormed = false := by
    constructor
    · intro h
      obtain ⟨-, hd⟩ | ⟨r, hr, hs, ⟨-, hd⟩ | ⟨hw, -⟩⟩ := decode_cases w
      · cases hd.symm.trans h
      · cases hd.symm.trans h
      · exact ⟨r, hr, hs, hw⟩
    · rintro ⟨r, hr, hs, hw⟩
      rw [decode_of_selects hr hs, if_neg (by simp [hw])]
  rw [missed]
  simp [opRows, assemble, Instr.wellFormed]

/-! ### Decoder and encoder -/

/-- The word of every operation selects the operation's row and gives its operands back. -/
theorem encode_selects_row (i : Instr) : Statement i := by
  cases i with
  | encode payload t => exact Laws.SelectsItsRow.encode payload t
  | decode => exact Laws.SelectsItsRow.decode
  | setThrottle ch value => exact Laws.SelectsItsRow.setThrottle ch value
  | sendCommand ch command rep => exact Laws.SelectsItsRow.sendCommand ch command rep
  | start => exact Laws.SelectsItsRow.start
  | complete => exact Laws.SelectsItsRow.complete
  | readChannel ch => exact Laws.SelectsItsRow.readChannel ch
  | readBus => exact Laws.SelectsItsRow.readBus

theorem decode_encode {i : Instr} (hw : i.wellFormed = true) : decode (encode i) = .ok i := by
  obtain ⟨hrow, hoperands⟩ := encode_selects_row i
  obtain ⟨r, hfind, hm⟩ := Option.map_eq_some_iff.mp hrow
  refine decode_eq_ok_iff.mpr
    ⟨r, List.mem_of_find?_eq_some hfind, by simpa using List.find?_some hfind, ?_, hw⟩
  rw [hm, hoperands]

/-- Encoding what a row assembles from a word that selects it gives the word back: each bit is
either fixed by the row or part of an operand (R92, R93). -/
theorem encode_assemble {r : OpRow} (hr : r ∈ opRows) {w : Word} (h : r.selects w = true) :
    encode (assemble r.mnemonic w) = w := by
  have field {k n : Nat} := field_of_selects h (k := k) (n := n)
  have opcode := field (k := 28) (n := 4)
  have nibble := field (k := 12) (n := 4)
  have whole (hm : r.mask = BitVec.allOnes 32) : w = r.bits := by
    simpa [OpRow.selects, hm, -BitVec.reduceAllOnes] using h
  simp only [opRows, List.mem_cons, List.not_mem_nil, or_false] at hr
  rcases hr with rfl | rfl | rfl | rfl | rfl | rfl | rfl | rfl
  · -- ENCODE
    conv_rhs => rw [word_fields w, opcode (by decide), chField, field (by decide), repField,
      field (by decide), nibble (by decide)]
    rfl
  · -- DECODE
    rw [whole rfl]; decide
  · -- SET_THROTTLE
    conv_rhs => rw [word_fields w, opcode (by decide), repField, field (by decide),
      nibble (by decide), tField, field (by decide)]
    rfl
  · -- SEND_COMMAND
    conv_rhs => rw [word_fields w, opcode (by decide), nibble (by decide), tField,
      field (by decide)]
    rfl
  · -- START
    rw [whole rfl]; decide
  · -- COMPLETE
    rw [whole rfl]; decide
  · -- READ_CHANNEL
    conv_rhs => rw [word_fields w, opcode (by decide), repField, field (by decide),
      nibble (by decide), tField, field (by decide), immField, field (by decide)]
    have zeros : ∀ ch : BitVec 4,
        7#4 ++ ch ++ 0#24 = 7#4 ++ ch ++ 0#8 ++ 0#4 ++ 0#1 ++ 0#11 := by decide
    exact zeros (chField w)
  · -- READ_BUS
    rw [whole rfl]; decide

end Sys2Proof

namespace Sys2Proof.Machine

/-! ### Steps -/

/-- On a bus that has been reset, a word that decodes to no operation is refused as the decoder
names it, whatever its ports (R94, R245). -/
theorem step_undecodable {s : State} {w : Word} {p : Ports} {rest : List Input}
    {e : DecodeRefusal} (hin : s.inputs = .op w p :: rest) (hcon : s.constructed = true)
    (hdec : decode w = .error e) : step s = .refused (refusalOf e) := by
  simp [step, hin, consume, admission, hcon, hdec]

/-- A run whose first step completes goes on from there. -/
theorem run_of_step {k : Nat} {s s' : State} (h : step s = .next s') :
    Sys2Proof.core.run (k + 1) s = Sys2Proof.core.run k s' := by
  rw [run_succ, h]

/-- After a START that completes, the bus awaits the answer of a channel below `N` (R175). -/
theorem exec_start_awaits {s t : State} (h : exec .start s = .next t)
    (hk : s.bus.currentChannel < s.bus.n) :
    t.bus.phase = .awaitRx ∧ t.bus.currentChannel < t.bus.n := by
  obtain ⟨-, c, -, rfl⟩ := exec_start_inv h
  exact ⟨rfl, by simpa using advance_pointer_lt s hk⟩

/-! ### GCR_MAP -/

/-- Under a bijective map a valid codeword is the entry of its nibble (R87). -/
theorem entry_of_gcrNibble {gcrMap : List (BitVec 5)} (h : gcrMap.Perm validCodewords)
    {g : BitVec 5} (hg : validCodeword g = true) :
    gcrMap[(gcrNibble gcrMap g).toNat]? = some g := by
  have mem : g ∈ gcrMap := h.mem_iff.mpr (by simpa [validCodeword] using hg)
  have lt : gcrMap.idxOf g < gcrMap.length := List.idxOf_lt_length_iff.mpr mem
  have sixteen : gcrMap.length = 16 := h.length_eq
  have place : (gcrNibble gcrMap g).toNat = gcrMap.idxOf g := by
    simp only [gcrNibble, BitVec.toNat_ofNat]
    omega
  rw [place, List.getElem?_eq_getElem lt, List.getElem_idxOf]

/-! ### The obligations -/

/-- Settles O2: the word selects its operation's row, whose operands are the operation's. -/
theorem decodeInvertsEncode : Obligations.DecodeInvertsEncode := fun _ hw => decode_encode hw

/-- Settles O3: the word selects the row it was decoded by, and that row's operands and fixed bits
are the whole word. -/
theorem encodeInvertsDecode : Obligations.EncodeInvertsDecode := by
  intro w i h
  obtain ⟨r, hr, hs, rfl, hw⟩ := decode_eq_ok_iff.mp h
  exact ⟨hw, encode_assemble hr hs⟩

/-- Settles O4: each row is its opcode and its must-be-zero bits, and SEND_COMMAND's row alone can
assemble an operation that is not well formed. -/
theorem wordsOutsideTheTableAreRefused : Obligations.WordsOutsideTheTableAreRefused := by
  intro w opc illegal outOfRange
  have hillegal : decode w = .error .illegalOp ↔ illegal := by
    have hopc : opc < 16 := (w.extractLsb' 28 4).isLt
    rw [decode_eq_illegalOp_iff, forall₂_congr fun r hr => not_congr (selects_iff hr)]
    change (∀ r ∈ opRows, ¬(opc = _ ∧ _)) ↔ _
    simp only [illegal]
    clear_value opc
    interval_cases opc <;> simp [opRows]
  have hrange : decode w = .error .commandRange ↔ outOfRange := by
    rw [decode_eq_commandRange_iff, selects_iff (by decide)]
    exact and_assoc
  exact ⟨hillegal, hrange, fun s p rest hin hcon =>
    ⟨fun h => step_undecodable hin hcon (hillegal.mpr h),
      fun h => step_undecodable hin hcon (hrange.mpr h)⟩⟩

/-- Settles O12: the four groups read `raw[20:0]` alone. -/
theorem highRawBitsAreIgnored : Obligations.HighRawBitsAreIgnored := by
  intro gcrMap raw raw' hraw hraw' hlow
  have group {k : Nat} (hk : k ≤ 15) := gcrGroup_congr hlow hk
  simp only [decodeTelemetry, if_neg hraw, if_neg hraw', group (k := 15) (by omega),
    group (k := 10) (by omega), group (k := 5) (by omega), group (k := 0) (by omega)]

/-- Settles O13: the codeword of a nibble is its entry, and a valid codeword is the entry of its
nibble. -/
theorem gcrMapIsABijection : Obligations.GcrMapIsABijection := by
  intro cfg hlegal x
  have sixteen : cfg.gcrMap.length = 16 := hlegal.bijection.length_eq
  have entry : cfg.gcrMap[x.toNat]? = some (cfg.gcrMap[x.toNat]'(by omega)) :=
    List.getElem?_eq_getElem _
  obtain ⟨hnibble, hvalid⟩ := gcrNibble_of_entry hlegal.bijection entry
  refine ⟨_, ⟨hvalid, hnibble⟩, fun g hg hx => ?_⟩
  have own := entry_of_gcrNibble hlegal.bijection hg
  rw [hx, entry] at own
  exact (Option.some.inj own).symm

/-- Settles O47: START's step leaves the bus in AWAIT_RX with its records and COMPLETE presented
with its word. -/
theorem tickRunsStartThenComplete : Obligations.TickRunsStartThenComplete := by
  intro s t a b ready raw rest hin hcon hnow hab _ hl hk hstart
  have hstep : step s = .next t :=
    (step_admitted hin hcon (decode_encode rfl) hnow).trans hstart
  obtain ⟨-, hcon', hinputs, hports, hn⟩ := exec_keeps hstart
  obtain ⟨hphase', hk'⟩ := exec_start_awaits hstart hk
  have hcomplete : exec .complete { t with ports := ⟨b, false, raw, true⟩, inputs := rest } =
      .next (completeWith raw { t with ports := ⟨b, false, raw, true⟩, inputs := rest }) :=
    exec_complete_next _ raw hphase' ((exec_length hstart).trans (hl.trans hn.symm)) hk'
      (receivedWord_presented rfl)
  have hstep' : step t = exec .complete
      { t with ports := ⟨b, false, raw, true⟩, inputs := rest } :=
    step_admitted hinputs (hcon'.trans hcon) (decode_encode rfl) (by rw [hports]; exact hab)
  exact ⟨_, hcomplete, (run_of_step hstep).trans (run_of_step (hstep'.trans hcomplete))⟩

/-- Settles O1, running the decoder on each word. -/
theorem tableWordsDecodeToTheirOperations : Obligations.TableWordsDecodeToTheirOperations := by
  unfold Obligations.TableWordsDecodeToTheirOperations
  decide

/-- Settles O8: masking a frame with sixteen ones changes nothing. -/
theorem wireWordIsTheComplement : Obligations.WireWordIsTheComplement := by
  intro f i hi
  have unmasked : wireWord f = ~~~f := BitVec.and_allOnes
  simp [unmasked, hi]

/-- Settles O18: a decode that is not OK is one of the decoder's failures, since classification
always succeeds. -/
theorem resultCodesAreTheTables : Obligations.ResultCodesAreTheTables := by
  refine ⟨rfl, rfl, fun gcrMap raw hfail => ?_⟩
  obtain ⟨-, h⟩ | ⟨-, -, h⟩ | ⟨-, -, h⟩ | ⟨-, -, h⟩ := decodeTelemetry_cases gcrMap raw
  case inr.inr.inr => exact absurd (h ▸ classify_status _) hfail
  all_goals rw [h]; exact ⟨rfl, rfl⟩

end Sys2Proof.Machine
end

section
/-!
PROOFS. The frame encoder (spec 40_frame_codec.md): a consistent frame is its 12-bit value under that
value's checksum (R122), a frame gives its operands back (R123, R81), and ENCODE returns the frame
alone (R120, R121).
-/

namespace Sys2Proof.Machine

/-! ### Consistent frames (R122) -/

/-- One consistent frame carries a given value: the value with its checksum below it. -/
theorem consistent_iff_eq_append {f : Frame} {value : BitVec 12} :
    crcOf f = crc4 value ∧ valueOf f = value ↔ f = value ++ crc4 value := by
  constructor
  · rintro ⟨hcrc, hvalue⟩
    rw [frame_split f, hcrc, hvalue]
  · rintro rfl
    exact ⟨BitVec.extractLsb'_append_eq_right, BitVec.extractLsb'_append_eq_left⟩

/-- The operands are read off the frame, so no two pairs of them share one. -/
theorem encodeFrame_inj {p p' : BitVec 11} {t t' : BitVec 1}
    (h : encodeFrame p t = encodeFrame p' t') : p = p' ∧ t = t' :=
  ⟨by simpa using congrArg payloadOf h, by simpa using congrArg telemetryBitOf h⟩

/-! ### The kinds of frame (R81) -/

theorem isThrottleFrame_iff {f : Frame} :
    isThrottleFrame f = true ↔ ∃ v : BitVec 11, f = encodeFrame v 0 := by
  constructor
  · intro h
    exact ⟨payloadOf f, eq_of_beq h⟩
  · rintro ⟨v, rfl⟩
    exact isThrottleFrame_encodeFrame v

theorem isCommandFrame_iff {f : Frame} :
    isCommandFrame f = true ↔ ∃ c : BitVec 11, c.toNat ≤ cmdMax ∧ f = encodeFrame c 1 := by
  constructor
  · intro h
    exact ⟨payloadOf f, by simpa [isCommandFrame] using h⟩
  · rintro ⟨c, hc, rfl⟩
    exact isCommandFrame_encodeFrame hc

/-! ### The obligations -/

/-- Settles O6: a frame is its value and its checksum, and the encoder puts the checksum of the
value there. -/
theorem encodedFramesAreTheConsistentOnes : Obligations.EncodedFramesAreTheConsistentOnes :=
  ⟨fun p t => eq_of_beq (checksumConsistent_encodeFrame p t),
    fun value => ⟨value ++ crc4 value, consistent_iff_eq_append.mpr rfl,
      fun _ hcrc hvalue => consistent_iff_eq_append.mp ⟨hcrc, hvalue⟩⟩,
    fun _ _ _ _ => encodeFrame_inj⟩

/-- Settles O7: the tests read the payload off the frame, and an encoded frame gives it back. -/
theorem framesGiveTheirOperandsBack : Obligations.FramesGiveTheirOperandsBack :=
  ⟨fun p t => ⟨payloadOf_encodeFrame p t, telemetryBitOf_encodeFrame p t⟩,
    fun _ => isThrottleFrame_iff, fun _ => isCommandFrame_iff⟩

/-- Settles O5: ENCODE appends one result to the state, whose checksum is the nibbles' (R121). -/
theorem encodeReturnsTheFrameAlone : Obligations.EncodeReturnsTheFrameAlone := by
  intro payload t s v crc
  have hcrc : crc4 v = crc := crc4_nibbles v
  rw [← hcrc]
  rfl

end Sys2Proof.Machine
end

section
/-!
PROOFS. The telemetry decoder (spec 41_telemetry_decoder.md): which words have each status (R141 to
R145, R242), what the two classifications report (R147, R149, R150) and how large a value is (R151),
and that DECODE returns the result alone (R140).
-/

namespace Sys2Proof.Machine

/-! ### The statuses of a decode (R242) -/

theorem decodeTelemetry_zero (gcrMap : List (BitVec 5)) :
    decodeTelemetry gcrMap 0 = decodeFailed .timeout := if_pos rfl

theorem decodeTelemetry_status_eq_timeout_iff (gcrMap : List (BitVec 5)) (raw : Word) :
    (decodeTelemetry gcrMap raw).status = .timeout ↔ raw = 0 := by
  obtain ⟨h0, h⟩ | ⟨h0, -, h⟩ | ⟨h0, -, h⟩ | ⟨h0, -, h⟩ := decodeTelemetry_cases gcrMap raw
  all_goals rw [h]; simpa [decodeFailed, classify_status] using h0

theorem decodeTelemetry_status_eq_badGcr_iff (gcrMap : List (BitVec 5)) (raw : Word) :
    (decodeTelemetry gcrMap raw).status = .badGcr ↔ raw ≠ 0 ∧ groupsValid raw = false := by
  obtain ⟨h0, h⟩ | ⟨h0, hg, h⟩ | ⟨h0, hg, h⟩ | ⟨h0, hg, h⟩ := decodeTelemetry_cases gcrMap raw
  · rw [h]; simp [h0, decodeFailed]
  · rw [h]; simpa [hg, decodeFailed] using h0
  · simp [h, hg, decodeFailed]
  · simp [h, hg, classify_status]

theorem decodeTelemetry_status_ne_badType (gcrMap : List (BitVec 5)) (raw : Word) :
    (decodeTelemetry gcrMap raw).status ≠ .badType := by
  obtain ⟨-, h⟩ | ⟨-, -, h⟩ | ⟨-, -, h⟩ | ⟨-, -, h⟩ := decodeTelemetry_cases gcrMap raw
  all_goals simp [h, decodeFailed, classify_status]

/-- A decode that is OK is the classification of the word's edt word. -/
theorem decodeTelemetry_eq_classify_of_ok {gcrMap : List (BitVec 5)} {raw : Word}
    (hok : (decodeTelemetry gcrMap raw).status = .ok) :
    decodeTelemetry gcrMap raw = classify (edtOf gcrMap raw) := by
  obtain ⟨-, h⟩ | ⟨-, -, h⟩ | ⟨-, -, h⟩ | ⟨-, -, h⟩ := decodeTelemetry_cases gcrMap raw
  case inr.inr.inr => exact h
  all_goals simp [h, decodeFailed] at hok

/-- On four valid groups the checksum decides (R145). -/
theorem decodeTelemetry_of_groupsValid (gcrMap : List (BitVec 5)) {raw : Word} (h0 : raw ≠ 0)
    (hg : groupsValid raw = true) : decodeTelemetry gcrMap raw =
      if (edtOf gcrMap raw).extractLsb' 0 4 = edtChecksum (edtOf gcrMap raw)
        then classify (edtOf gcrMap raw) else decodeFailed .badCrc := by
  rw [decodeTelemetry, if_neg h0]
  exact if_pos hg

/-! ### The groups (R86, R143, R144) -/

/-- The sixteen values that are no codeword, as R86 lists them. -/
def invalidCodewords : List (BitVec 5) :=
  [0x00, 0x01, 0x02, 0x03, 0x04, 0x05, 0x06, 0x07, 0x08, 0x0C, 0x10, 0x11, 0x14, 0x18, 0x1C, 0x1F]

theorem validCodeword_eq_false_iff : ∀ g : BitVec 5,
    validCodeword g = false ↔ g ∈ invalidCodewords := by decide

theorem groupsValid_eq_false_iff (raw : Word) : groupsValid raw = false ↔
    gcrGroup (transitionDecode raw) 15 ∈ invalidCodewords ∨
    gcrGroup (transitionDecode raw) 10 ∈ invalidCodewords ∨
    gcrGroup (transitionDecode raw) 5 ∈ invalidCodewords ∨
    gcrGroup (transitionDecode raw) 0 ∈ invalidCodewords := by
  simp only [groupsValid, Bool.and_eq_false_iff, validCodeword_eq_false_iff, or_assoc]

/-- Under a bijective map, the codewords of four nibbles are valid groups, and the edt word is the
nibbles themselves (R144). -/
theorem edtOf_of_entries {gcrMap : List (BitVec 5)} (h : gcrMap.Perm validCodewords) {raw : Word}
    {x3 x2 x1 x0 : BitVec 4}
    (h3 : gcrMap[x3.toNat]? = some (gcrGroup (transitionDecode raw) 15))
    (h2 : gcrMap[x2.toNat]? = some (gcrGroup (transitionDecode raw) 10))
    (h1 : gcrMap[x1.toNat]? = some (gcrGroup (transitionDecode raw) 5))
    (h0 : gcrMap[x0.toNat]? = some (gcrGroup (transitionDecode raw) 0)) :
    groupsValid raw = true ∧ edtOf gcrMap raw = x3 ++ x2 ++ x1 ++ x0 := by
  obtain ⟨n3, v3⟩ := gcrNibble_of_entry h h3
  obtain ⟨n2, v2⟩ := gcrNibble_of_entry h h2
  obtain ⟨n1, v1⟩ := gcrNibble_of_entry h h1
  obtain ⟨n0, v0⟩ := gcrNibble_of_entry h h0
  exact ⟨by simp only [groupsValid, v3, v2, v1, v0, Bool.and_self],
    by simp only [edtOf, edtWord, n3, n2, n1, n0]⟩

/-! ### Classification (R146 to R150) -/

theorem isExtended_iff (top : BitVec 4) :
    isExtended top = true ↔ top.toNat ≠ 0 ∧ top.toNat % 2 = 0 := by
  simp [isExtended, ← BitVec.toNat_inj]

theorem classify_extended {edt : Frame} (hne : (edt.extractLsb' 12 4).toNat ≠ 0)
    (heven : (edt.extractLsb' 12 4).toNat % 2 = 0) :
    classify edt = edtValue (edt.extractLsb' 12 4) (edt.extractLsb' 4 8) :=
  if_pos ((isExtended_iff _).mpr ⟨hne, heven⟩)

/-- The period of a legacy edt word, from its exponent and mantissa (R149). -/
def periodOf (edt : Frame) : Nat := erpmPeriod (edt.extractLsb' 13 3) (edt.extractLsb' 4 9)

theorem periodOf_eq (edt : Frame) :
    periodOf edt = (edt.extractLsb' 4 9).toNat * 2 ^ (edt.extractLsb' 13 3).toNat :=
  erpmPeriod_eq _ _

theorem classify_legacy {edt : Frame}
    (h : (edt.extractLsb' 12 4).toNat = 0 ∨ (edt.extractLsb' 12 4).toNat % 2 = 1) :
    classify edt = ⟨.ok, .erpm, erpmOfPeriod (periodOf edt)⟩ :=
  if_neg fun hext => by
    have := (isExtended_iff _).mp hext
    omega

@[simp] theorem erpmOfPeriod_stopped : erpmOfPeriod 0xFF80 = 0 := rfl

@[simp] theorem erpmOfPeriod_zero : erpmOfPeriod 0 = 0 := rfl

theorem erpmOfPeriod_toNat {period : Nat} (hs : period ≠ 0xFF80) (hz : period ≠ 0) :
    (erpmOfPeriod period).toNat = 60000000 / period := by
  have le : erpmNumerator / period ≤ 60000000 := Nat.div_le_self _ _
  rw [erpmOfPeriod, if_neg hs, if_neg hz, BitVec.toNat_ofNat, Nat.mod_eq_of_lt (by omega)]

/-- The top nibble and the upper twelve bits of an edt word, from its exponent and mantissa. -/
theorem edt_toNat_of_exponent_mantissa (edt : Frame) :
    (edt.extractLsb' 12 4).toNat =
      2 * (edt.extractLsb' 13 3).toNat + (edt.extractLsb' 4 9).toNat / 256 ∧
    (edt.extractLsb' 4 12).toNat =
      512 * (edt.extractLsb' 13 3).toNat + (edt.extractLsb' 4 9).toNat := by
  simp only [BitVec.extractLsb'_toNat, Nat.shiftRight_eq_div_pow]
  omega

/-- The stopped period takes the largest mantissa and the largest exponent (R150). -/
theorem mantissa_shift_eq_stopped_iff {m e : Nat} (hm : m < 512) (he : e < 8) :
    m * 2 ^ e = 0xFF80 ↔ m = 511 ∧ e = 7 := by
  interval_cases e <;> omega

theorem periodOf_eq_stopped_iff (edt : Frame) :
    periodOf edt = 0xFF80 ↔ edt.extractLsb' 4 12 = 0xFFF := by
  have hm := (edt.extractLsb' 4 9).isLt
  have he := (edt.extractLsb' 13 3).isLt
  obtain ⟨-, hupper⟩ := edt_toNat_of_exponent_mantissa edt
  rw [periodOf_eq, mantissa_shift_eq_stopped_iff hm he, ← BitVec.toNat_inj, hupper]
  change _ ↔ _ = 0xFFF
  omega

/-- A mantissa of 0 leaves the top nibble even, so in a legacy word the exponent is 0 too. -/
theorem periodOf_eq_zero_iff {edt : Frame}
    (h : (edt.extractLsb' 12 4).toNat = 0 ∨ (edt.extractLsb' 12 4).toNat % 2 = 1) :
    periodOf edt = 0 ↔ edt.extractLsb' 4 12 = 0x000 := by
  obtain ⟨htop, hupper⟩ := edt_toNat_of_exponent_mantissa edt
  rw [periodOf_eq, Nat.mul_eq_zero, or_iff_left (Nat.two_pow_pos _).ne', ← BitVec.toNat_inj, hupper]
  change _ ↔ _ = 0
  omega

/-! ### The obligations -/

/-- Settles O10: each of the other outcomes is that of a nonzero word. -/
theorem onlyTheZeroWordIsTimeout : Obligations.OnlyTheZeroWordIsTimeout :=
  fun gcrMap raw => ⟨decodeTelemetry_zero gcrMap, decodeTelemetry_status_eq_timeout_iff gcrMap raw⟩

/-- Settles O11: BadGCR is the answer where the groups are not all valid, and R86's sixteen values
are the groups that are not. -/
theorem badGcrIsAnInvalidGroup : Obligations.BadGcrIsAnInvalidGroup := by
  intro gcrMap raw h0 invalid group
  rw [decodeTelemetry_status_eq_badGcr_iff, groupsValid_eq_false_iff]
  exact and_iff_right h0

/-- Settles O14: the edt word is the four nibbles, so its low nibble is `x0` and its checksum the
complement of the XOR of the others. -/
theorem validGroupsRebuildTheEdtWord : Obligations.ValidGroupsRebuildTheEdtWord := by
  intro cfg raw x3 x2 x1 x0 hlegal hraw h3 h2 h1 h0
  obtain ⟨hvalid, hedt⟩ := edtOf_of_entries hlegal.bijection h3 h2 h1 h0
  have low : (x3 ++ x2 ++ x1 ++ x0).extractLsb' 0 4 = x0 := BitVec.extractLsb'_append_eq_right
  rw [decodeTelemetry_of_groupsValid _ hraw hvalid, hedt, low, edtChecksum_nibbles]
  exact ⟨fun hbad => if_neg hbad, fun hgood => if_pos hgood⟩

/-- Settles O15: an even nonzero top nibble selects Extended Telemetry, where each row of R89 is a
case of `edtValue`. -/
theorem extendedWordsReportTheirKind : Obligations.ExtendedWordsReportTheirKind := by
  intro edt
  dsimp only
  refine ⟨?_, ?_, ?_, ?_, ?_, ?_, ?_⟩
  all_goals
    intro h
    rw [classify_extended (by omega) (by omega)]
    simp only [edtValue, h, BitVec.ofNat_toNat]

/-- Settles O16: a legacy word reports the value of its period, and the exponent and mantissa that
give the two special periods are read off its upper bits. -/
theorem legacyWordsReportErpm : Obligations.LegacyWordsReportErpm := by
  intro edt top period hlegacy
  have hperiod : periodOf edt = period := periodOf_eq edt
  clear_value period
  subst hperiod
  rw [classify_legacy hlegacy]
  exact ⟨rfl, rfl, fun h => h ▸ erpmOfPeriod_stopped, fun h => h ▸ erpmOfPeriod_zero,
    erpmOfPeriod_toNat, periodOf_eq_stopped_iff edt, periodOf_eq_zero_iff hlegacy⟩

/-- Settles O17: classification always succeeds, and no check before it answers BadType. -/
theorem noWordIsBadType : Obligations.NoWordIsBadType := decodeTelemetry_status_ne_badType

/-- Settles O19: an OK decode is a classification, whose value lies below the sign bit. -/
theorem telemetryValuesFitAnI32 : Obligations.TelemetryValuesFitAnI32 := by
  refine ⟨fun gcrMap raw hok => ?_, rfl⟩
  have le := classify_value_le (edtOf gcrMap raw)
  rw [decodeTelemetry_eq_classify_of_ok hok, BitVec.toInt_eq_toNat_of_lt (by omega)]
  omega

/-- Settles O9: DECODE appends one result to the state, whatever the ports hold. -/
theorem decodeReturnsTheResultAlone : Obligations.DecodeReturnsTheResultAlone := fun _ => rfl

end Sys2Proof.Machine
end

section
/-!
PROOFS. The multiplexer (spec 42_multiplexer.md): what START (R171 to R175) and COMPLETE (R177 to
R181) make of the registers, and from it what stands in a run that does not disturb it: the round
robin (R182), repeated commands (R183), delays (R184) and the idle failsafe (R185).
-/

namespace Sys2Proof.Machine

/-! ### The records after a write at one index -/

section
variable {l l' : List Channel} {k : Nat} {c c' : Channel}

theorem stored_record (hc : l[k]? = some c) (hl : l' = l.modify k fun _ => c') :
    l'[k]? = some c' := by
  simp [hl, hc]

theorem other_record (hl : l' = l.modify k fun _ => c') {j : Nat} (hj : j ≠ k) :
    l'[j]? = l[j]? := by
  simp [hl, hj.symm]

end

/-! ### START's steps on the addressed record (R172 to R174) -/

section
variable {now d : Nat} {ready : Bool} {c : Channel}

/-- The counter goes down by one and stops at 0. -/
theorem repeatStep_counter (c : Channel) :
    (repeatStep c).repeatCounter.toNat = c.repeatCounter.toNat - 1 := by
  obtain ⟨h0, h1, h2⟩ := repeatStep_cases c
  obtain h | h | h : c.repeatCounter = 0 ∨ c.repeatCounter = 1 ∨ 1 < c.repeatCounter.toNat := by
    bv_omega
  · simp [h0 h, h]
  · simp [h1 h, h]
  · rw [h2 h]
    bv_omega

/-- The frame reverts on the transition from 1 to 0 alone. -/
theorem repeatStep_frame (c : Channel) :
    (repeatStep c).frame = if c.repeatCounter = 1 then c.lastThrottleFrame else c.frame := by
  obtain ⟨h0, h1, h2⟩ := repeatStep_cases c
  obtain h | h | h : c.repeatCounter = 0 ∨ c.repeatCounter = 1 ∨ 1 < c.repeatCounter.toNat := by
    bv_omega
  · simp [h0 h, h]
  · simp [h1 h, h]
  · rw [h2 h, if_neg (by bv_omega)]

theorem expireDelay_of_none (h : c.delayDeadline = none) :
    (expireDelay now c).delayDeadline = none := by
  simp [expireDelay, h]

theorem expireDelay_of_reached (h : c.delayDeadline = some d) (hd : d ≤ now) :
    (expireDelay now c).delayDeadline = none := by
  simp [expireDelay, h, hd]

theorem expireDelay_of_pending (h : c.delayDeadline = some d) (hd : now < d) :
    (expireDelay now c).delayDeadline = some d := by
  simp [expireDelay, h, Nat.not_le.mpr hd]

@[simp] theorem expireDelay_repeatStep_delayDeadline :
    (expireDelay now (repeatStep c)).delayDeadline = (expireDelay now c).delayDeadline := by
  rw [← served_delayDeadline now false c]
  unfold served
  split <;> rfl

/-- START submits exactly where the expiry step leaves no deadline and the transport is ready. -/
theorem submits_iff : submits ready (expireDelay now (repeatStep c)) = true ↔
    (expireDelay now c).delayDeadline = none ∧ ready = true := by
  simp [submits, Channel.delaying]

theorem served_txFrames : (served now ready c).txFrames =
    if submits ready (expireDelay now (repeatStep c)) then c.txFrames + 1 else c.txFrames := by
  unfold served
  split <;> simp

/-- A pending deadline stands, and nothing is submitted. -/
theorem served_of_pending (h : c.delayDeadline = some d) (hd : now < d) :
    (served now ready c).delayDeadline = some d ∧
      (served now ready c).txFrames = c.txFrames := by
  have deadline := expireDelay_of_pending h hd
  have silent : ¬submits ready (expireDelay now (repeatStep c)) = true := by
    rw [submits_iff, deadline]
    nofun
  rw [served_delayDeadline, served_txFrames, if_neg silent]
  exact ⟨deadline, rfl⟩

end

/-! ### COMPLETE's writes to a record (R178, R181) -/

@[simp] theorem countRx_frame (status : Status) (c : Channel) :
    (countRx status c).frame = c.frame := by rw [countRx_spec]

@[simp] theorem countRx_lastThrottleFrame (status : Status) (c : Channel) :
    (countRx status c).lastThrottleFrame = c.lastThrottleFrame := by rw [countRx_spec]

@[simp] theorem countRx_repeatCounter (status : Status) (c : Channel) :
    (countRx status c).repeatCounter = c.repeatCounter := by rw [countRx_spec]

@[simp] theorem countRx_delayDeadline (status : Status) (c : Channel) :
    (countRx status c).delayDeadline = c.delayDeadline := by rw [countRx_spec]

@[simp] theorem countRx_txFrames (status : Status) (c : Channel) :
    (countRx status c).txFrames = c.txFrames := by rw [countRx_spec]

/-- The five receive counters together count every answer (R178). -/
theorem countRx_sum (status : Status) (c : Channel) :
    (countRx status c).rxFrames + (countRx status c).rxTimeout + (countRx status c).rxBadGcr +
        (countRx status c).rxBadCrc + (countRx status c).rxBadType =
      c.rxFrames + c.rxTimeout + c.rxBadGcr + c.rxBadCrc + c.rxBadType + 1 := by
  cases status <;> simp only [countRx] <;> ac_rfl

/-- The failsafe keeps what COMPLETE counted. -/
theorem neutralized_rxCounters (due : Bool) (c : Channel) :
    let c' := (if due then throttleChannel 0 else id) c
    c'.rxFrames = c.rxFrames ∧ c'.rxTimeout = c.rxTimeout ∧ c'.rxBadGcr = c.rxBadGcr ∧
      c'.rxBadCrc = c.rxBadCrc ∧ c'.rxBadType = c.rxBadType := by
  cases due <;> simp

/-- The registers the failsafe resets hold their neutral values (R181). -/
def Channel.Neutral (c : Channel) : Prop :=
  c.frame = 0x000F ∧ c.lastThrottleFrame = 0x000F ∧ c.repeatCounter = 0 ∧ c.delayDeadline = none

theorem throttleChannel_zero_neutral (c : Channel) : (throttleChannel 0 c).Neutral := by
  have zero : encodeFrame 0 0 = 0x000F := by decide
  exact ⟨zero, zero, rfl, rfl⟩

theorem failsafeDue_iff {now last : Nat} :
    failsafeDue now last = true ↔ last + 500000 < now := by
  simp [failsafeDue]

section
variable {raw : Word} {s : State}

/-- What COMPLETE makes of a record: it counts on the addressed one, and then neutralises each
where the failsafe is due. -/
theorem completeWith_getElem? (hl : s.ch.length = s.bus.n) (hk : s.bus.currentChannel < s.bus.n)
    {j : Nat} {c : Channel} (hc : s.ch[j]? = some c) :
    (completeWith raw s).ch[j]? = some
      ((if failsafeDue s.ports.now s.bus.lastCommandTime then throttleChannel 0 else id)
        (if s.bus.currentChannel = j then
          countRx (decodeTelemetry s.config.gcrMap raw).status c else c)) := by
  rw [completeWith_spec raw s hl hk]
  simp only [List.getElem?_map, List.getElem?_modify, hc]
  split <;> rfl

/-- A failsafe that is due leaves every record neutral (R181). -/
theorem completeWith_neutral (hl : s.ch.length = s.bus.n) (hk : s.bus.currentChannel < s.bus.n)
    (hdue : failsafeDue s.ports.now s.bus.lastCommandTime = true) :
    (completeWith raw s).bus.lastCommandTime = s.ports.now ∧
      ∀ c ∈ (completeWith raw s).ch, c.Neutral := by
  rw [completeWith_spec raw s hl hk]
  simp only [hdue, if_true, List.mem_map]
  refine ⟨trivial, ?_⟩
  rintro _ ⟨c, -, rfl⟩
  exact throttleChannel_zero_neutral c

/-- A failsafe that is not due writes nothing, so each record is counted on or left alone. -/
theorem completeWith_not_due (hl : s.ch.length = s.bus.n) (hk : s.bus.currentChannel < s.bus.n)
    (hdue : failsafeDue s.ports.now s.bus.lastCommandTime = false) :
    (completeWith raw s).bus.lastCommandTime = s.bus.lastCommandTime ∧
      ∀ (j : Nat) (c : Channel), s.ch[j]? = some c →
        (completeWith raw s).ch[j]? = some c ∨
          ∃ status, (completeWith raw s).ch[j]? = some (countRx status c) := by
  constructor
  · simp [completeWith_spec raw s hl hk, hdue]
  · intro j c hc
    rw [completeWith_getElem? hl hk hc, hdue]
    by_cases hj : s.bus.currentChannel = j
    · exact .inr ⟨_, by rw [if_pos hj]; rfl⟩
    · exact .inl (by rw [if_neg hj]; rfl)

end

/-! ### The obligations on START (R171 to R175) -/

/-- Settles O27: advance alone writes the pointer and `tx_select`, and its `Select` stands before
START's other event, which is a `Submit`. -/
theorem startAdvancesTheRing : Obligations.StartAdvancesTheRing := by
  intro s hp hl hk
  obtain ⟨t, c, he, -, -, -, hev, hb, -⟩ := exec_start_spec s hp hl hk
  refine ⟨t, if submits s.ports.txReady (expireDelay s.ports.now (repeatStep c)) then
    [.submit (repeatStep c).frame s.bus.bitPeriodCycles] else [], he, fun k => ?_, fun hn => ?_,
    fun hn => ?_⟩
  · split <;> simp
  · rw [hev, if_pos hn]
    simp [hb, advance_bus, hn, nextChannel]
  · rw [hev, if_neg (by omega), List.append_nil]
    simp [hb, advance_bus, hn]

/-- Settles O28: the repeat step alone writes the frame and the counter. -/
theorem startCountsTheRepeatDown : Obligations.StartCountsTheRepeatDown := by
  intro s hp hl hk
  obtain ⟨t, c, he, hc, -, hch, -⟩ := exec_start_spec s hp hl hk
  obtain ⟨stays, reverts, -⟩ := repeatStep_cases c
  refine ⟨t, c, _, he, hc, stored_record hc hch, fun h => ?_, fun h => ?_, fun h => ?_,
    fun j hj => other_record hch hj⟩
  · simp [stays h, h]
  · simp [reverts h]
  · rw [served_repeatCounter, served_frame, repeatStep_counter, repeatStep_frame,
      if_neg (by bv_omega)]
    exact ⟨rfl, rfl⟩

/-- Settles O29: the expiry step alone writes the deadline. -/
theorem startExpiresTheDelay : Obligations.StartExpiresTheDelay := by
  intro s hp hl hk
  obtain ⟨t, c, he, hc, -, hch, -⟩ := exec_start_spec s hp hl hk
  refine ⟨t, c, _, he, hc, stored_record hc hch, ?_, ?_, ?_,
    fun j hj => by rw [other_record hch hj]⟩
  all_goals rw [served_delayDeadline]
  · exact expireDelay_of_none
  · exact fun d => expireDelay_of_reached
  · exact fun d => expireDelay_of_pending

/-- Settles O30: the test for submitting reads the deadline the expiry step left. -/
theorem startSubmitsWhenReady : Obligations.StartSubmitsWhenReady := by
  intro s hp hl hk
  obtain ⟨t, c, he, hc, -, hch, hev, -⟩ := exec_start_spec s hp hl hk
  refine ⟨t, c, _, he, hc, stored_record hc hch, ?_⟩
  rw [served_delayDeadline]
  refine ⟨fun hd hr => ?_, fun h => ?_⟩
  · have ready := submits_iff.mpr ⟨hd, hr⟩
    rw [hev, served_txFrames, if_pos ready, if_pos ready, served_frame]
    exact ⟨rfl, rfl⟩
  · have silent := mt submits_iff.mp (not_and_or.mpr (h.imp_right Bool.eq_false_iff.mp))
    rw [hev, served_txFrames, if_neg silent, if_neg silent, List.append_nil]
    exact ⟨rfl, rfl⟩

/-- Settles O31: of the bus START writes the pointer, `tx_select` and the phase, and of a record the
frame, the counter, the deadline and `tx_frames`. -/
theorem startEndsAwaitingTheAnswer : Obligations.StartEndsAwaitingTheAnswer := by
  intro s hp hl hk
  obtain ⟨t, -, he, -, -, -, -, hb, htime, hcon, hports, hresults, hconfig, hinputs⟩ :=
    exec_start_spec s hp hl hk
  refine ⟨t, he, by simp [hb], htime, by simp [hb], by simp [hb], by simp [hb], exec_length he,
    hcon, hports, hresults, hconfig, hinputs, fun j c c' hc hc' => ?_⟩
  have hw := exec_record he hc hc'
  exact ⟨hw.lastThrottleFrame nofun nofun, hw.rxCounters (.inl nofun)⟩

/-! ### The obligations on COMPLETE (R177 to R181) -/

/-- Settles O33: counting touches the addressed record's counter of the status, and neither the
other records' counters nor any `tx_frames` is COMPLETE's. -/
theorem completeCountsExactlyOnce : Obligations.CompleteCountsExactlyOnce := by
  intro s hp hl hk hr status
  have he := exec_complete_next s _ hp hl hk (receivedWord_presented hr)
  have hc : s.ch[s.bus.currentChannel]? = some (s.ch[s.bus.currentChannel]'(by omega)) :=
    List.getElem?_eq_getElem _
  have hcur : (completeWith s.ports.rxWord s).bus.currentChannel = s.bus.currentChannel :=
    (exec_pointer he nofun).1
  refine ⟨_, _, _, he, hc, completeWith_getElem? hl hk hc, ?_⟩
  obtain ⟨frames, timeout, badGcr, badCrc, badType⟩ := neutralized_rxCounters
    (failsafeDue s.ports.now s.bus.lastCommandTime) (countRx status s.ch[s.bus.currentChannel])
  rw [if_pos rfl, frames, timeout, badGcr, badCrc, badType, countRx_sum]
  refine ⟨by rw [countRx_spec], by rw [countRx_spec], by rw [countRx_spec], by rw [countRx_spec],
    by rw [countRx_spec], rfl, fun j d d' hd hd' => ?_⟩
  have hw := exec_record he hd hd'
  exact ⟨hw.txFrames (.inl nofun), fun hj => hw.rxCounters (.inr (hcur ▸ hj))⟩

/-- Settles O34: dispatch alone emits. -/
theorem completeDispatchesTelemetry : Obligations.CompleteDispatchesTelemetry := by
  intro s hp hl hk hr r
  refine ⟨_, exec_complete_next s _ hp hl hk (receivedWord_presented hr), fun hok => ?_,
    fun hfail => ?_⟩
  all_goals rw [completeWith_spec _ s hl hk]
  · exact congrArg _ (if_pos hok)
  · exact (congrArg _ (if_neg hfail)).trans (List.append_nil _)

/-- Settles O35: the threshold decides between neutralising every record and writing none of these
registers. -/
theorem completeAppliesTheFailsafe : Obligations.CompleteAppliesTheFailsafe := by
  intro s hp hl hk hr
  refine ⟨_, exec_complete_next s _ hp hl hk (receivedWord_presented hr), by simp, fun hlate => ?_,
    fun hearly => ?_⟩
  · exact completeWith_neutral hl hk (failsafeDue_iff.mpr hlate)
  · have hdue : failsafeDue s.ports.now s.bus.lastCommandTime = false := by
      simpa [failsafeDue] using hearly
    obtain ⟨hlast, hrecords⟩ := completeWith_not_due (raw := s.ports.rxWord) hl hk hdue
    refine ⟨hlast, fun j c c' hc hc' => ?_⟩
    obtain h | ⟨status, h⟩ := hrecords j c hc
    all_goals
      obtain rfl := Option.some.inj (h.symm.trans hc')
      simp

/-- Settles O36: COMPLETE writes no bus register but `last_command_time` and the phase. -/
theorem completeEndsIdle : Obligations.CompleteEndsIdle := by
  intro s hp hl hk hr
  refine ⟨_, exec_complete_next s _ hp hl hk (receivedWord_presented hr), ?_⟩
  rw [completeWith_spec _ s hl hk]
  exact ⟨rfl, rfl, rfl, rfl, rfl, rfl, rfl, rfl, rfl, rfl, rfl⟩

/-! ### A step that is no reset -/

section
variable {s s' : State}

/-- A step that is no reset ran the next operation under its ports. -/
theorem step_of_not_reset (h : step s = .next s') (hr : resetNext s = false) :
    ∃ i p rest, nextOp s = some i ∧ nextNow s = p.now ∧ s.constructed = true ∧
      s.ports.now ≤ p.now ∧ exec i (presented p rest s) = .next s' := by
  obtain ⟨w, p, rest, i, hin, hcon, hdec, hnow, hex⟩ | ⟨n, speedKhz, t0, rest, hin, -⟩ :=
    step_inv h
  · exact ⟨i, p, rest, by simp [nextOp, hin, hdec, Except.toOption], by simp [nextNow, hin], hcon,
      hnow, hex⟩
  · simp [resetNext, hin, Input.isReset] at hr

/-- A step that is no reset keeps a running bus running, with its `N`. -/
theorem step_running (h : step s = .next s') (hr : resetNext s = false) (hs : s.Running) :
    s'.Running ∧ s'.constructed = true ∧ s'.bus.n = s.bus.n := by
  obtain ⟨i, p, rest, -, -, hcon, hnow, hex⟩ := step_of_not_reset h hr
  obtain ⟨-, hcon', -, -, hn⟩ := exec_keeps hex
  exact ⟨exec_running hex (presented_running rest hs hnow), hcon'.trans hcon, hn⟩

/-- In a step that is no reset time goes on (R283). -/
theorem step_now_le (h : step s = .next s') (hr : resetNext s = false) :
    s.ports.now ≤ s'.ports.now := by
  obtain ⟨i, p, rest, -, -, -, hnow, hex⟩ := step_of_not_reset h hr
  obtain ⟨-, -, -, hports, -⟩ := exec_keeps hex
  rw [hports]
  exact hnow

theorem failsafe_not_due {p : Ports} (hop : nextOp s = some .complete)
    (htime : nextNow s = p.now) (hfail : failsafeNext s = false) :
    failsafeDue p.now s.bus.lastCommandTime = false := by
  simpa [failsafeNext, hop, htime] using hfail

end

/-! ### What each operation makes of the pointer and of one record -/

section
variable {i : Instr} {s t : State} {j : Nat} {c : Channel}

/-- START advances the pointer around the ring, and no other operation moves it (R171). -/
theorem exec_currentChannel (h : exec i s = .next t) (hk : s.bus.currentChannel < s.bus.n) :
    t.bus.currentChannel =
      (s.bus.currentChannel + if i = .start then 1 else 0) % s.bus.n := by
  by_cases hi : i = .start
  · subst hi
    obtain ⟨-, c, -, rfl⟩ := exec_start_inv h
    simpa using advance_pointer s hk
  · rw [if_neg hi, Nat.add_zero, Nat.mod_eq_of_lt hk, (exec_pointer h hi).1]

@[simp] theorem addressedByStart_presented (p : Ports) (rest : List Input) (s : State) :
    addressedByStart (presented p rest s) = addressedByStart s := by
  simp [addressedByStart, advance_bus]

theorem exec_start_addresses (h : exec .start s = .next t) :
    t.bus.currentChannel = addressedByStart s := by
  obtain ⟨-, c, -, rfl⟩ := exec_start_inv h
  simp [addressedByStart]

/-- START serves the record it addresses. -/
theorem exec_start_served (h : exec .start s = .next t)
    (hc : s.ch[addressedByStart s]? = some c) :
    t.ch[addressedByStart s]? = some (served s.ports.now s.ports.txReady c) := by
  obtain ⟨-, c₀, hc₀, rfl⟩ := exec_start_inv h
  obtain rfl : c₀ = c := Option.some.inj (hc₀.symm.trans hc)
  exact stored_record hc (by simp [addressedByStart])

/-- Where COMPLETE's failsafe is not due, it counts on a record or leaves it alone (R178). -/
theorem exec_complete_not_due (h : exec .complete s = .next t) (hs : s.Running)
    (hdue : failsafeDue s.ports.now s.bus.lastCommandTime = false) :
    t.bus.lastCommandTime = s.bus.lastCommandTime ∧
      (s.ch[j]? = some c → t.ch[j]? = some c ∨ ∃ status, t.ch[j]? = some (countRx status c)) := by
  obtain ⟨-, raw, -, -, -, rfl⟩ := exec_complete_inv h
  obtain ⟨hlast, hrecords⟩ := completeWith_not_due (raw := raw) hs.records hs.pointer hdue
  exact ⟨hlast, hrecords j c⟩

end

/-! ### What a run keeps -/

/-- A run of `k` steps from a state to another, none of whose inputs is `bad` where it is met. -/
inductive RunFree (bad : State → Bool) : Nat → State → State → Prop
  | stop (s : State) : RunFree bad 0 s s
  | step {k : Nat} {s s' t : State} (good : bad s = false) (first : step s = .next s')
      (others : RunFree bad k s' t) : RunFree bad (k + 1) s t

theorem runFree_of_run {bad : State → Bool} {k : Nat} {s t : State}
    (hfree : freeOf bad k s = true) (hrun : Sys2Proof.core.run k s = .next t) :
    RunFree bad k s t := by
  induction k generalizing s with
  | zero =>
    obtain rfl := run_zero_inv hrun
    exact .stop t
  | succ k ih =>
    obtain ⟨s', hs, hrun'⟩ := run_succ_inv hrun
    simp only [freeOf, hs, Bool.and_eq_true, Bool.not_eq_true'] at hfree
    exact .step hfree.1 hs (ih hfree.2 hrun')

theorem startsOn_succ {c k : Nat} {s s' : State} (h : step s = .next s') :
    startsOn c (k + 1) s =
      (if nextOp s = some .start ∧ addressedByStart s = c then 1 else 0) + startsOn c k s' := by
  simp only [startsOn, h]

/-- What a step that disturbs channel `j` in nothing makes of its record `c`: a START that
addresses it serves it, and any other step counts an answer on it or leaves it alone. -/
inductive QuietWrite (s s' : State) (j : Nat) (c : Channel) : Channel → Prop
  | served (start : nextOp s = some .start ∧ addressedByStart s = j) :
      QuietWrite s s' j c (served s'.ports.now s'.ports.txReady c)
  | kept (other : ¬(nextOp s = some .start ∧ addressedByStart s = j)) : QuietWrite s s' j c c
  | counted (other : ¬(nextOp s = some .start ∧ addressedByStart s = j)) (status : Status) :
      QuietWrite s s' j c (countRx status c)

theorem resetNext_of_quiet {s : State} {j : Nat} (h : disturbs j s = false) :
    resetNext s = false := by
  simp only [disturbs, Bool.or_eq_false_iff] at h
  exact h.2

/-- The record of a channel that a step does not disturb. -/
theorem step_quiet {s s' : State} {j : Nat} {c : Channel} (h : step s = .next s')
    (hs : s.Running) (hd : disturbs j s = false) (hc : s.ch[j]? = some c) :
    ∃ c', s'.ch[j]? = some c' ∧ QuietWrite s s' j c c' := by
  simp only [disturbs, Bool.or_eq_false_iff] at hd
  obtain ⟨⟨hcall, hfail⟩, hreset⟩ := hd
  obtain ⟨i, p, rest, hop, htime, -, hnow, hex⟩ := step_of_not_reset h hreset
  obtain ⟨-, -, -, hports, -⟩ := exec_keeps hex
  rw [hop] at hcall
  by_cases hcomplete : i = .complete
  · subst hcomplete
    have hdue := failsafe_not_due hop htime hfail
    have other : ¬(nextOp s = some .start ∧ addressedByStart s = j) := by simp [hop]
    obtain ⟨-, hrecord⟩ := exec_complete_not_due hex (presented_running rest hs hnow) hdue
    obtain hc' | ⟨status, hc'⟩ := hrecord hc
    · exact ⟨c, hc', .kept other⟩
    · exact ⟨_, hc', .counted other status⟩
  by_cases hserved : i = .start ∧ addressedByStart s = j
  · obtain ⟨rfl, rfl⟩ := hserved
    have hc' := exec_start_served hex (by simpa using hc)
    rw [addressedByStart_presented, ← hports] at hc'
    exact ⟨_, hc', .served ⟨hop, rfl⟩⟩
  · obtain ⟨c', hc'⟩ : ∃ c', s'.ch[j]? = some c' := by
      have hj := (List.getElem?_eq_some_iff.mp hc).1
      exact ⟨_, List.getElem?_eq_getElem (by rw [exec_length hex]; exact hj)⟩
    have same : c' = c := by
      refine (exec_record hex hc hc').eq_of_not_own ?_ ?_ ?_ hcomplete
      · rintro k v rfl
        simpa using hcall
      · rintro k cmd rep rfl
        simpa using hcall
      · rintro rfl hj
        exact hserved ⟨rfl, by simpa [hj] using (exec_start_addresses hex).symm⟩
    exact ⟨c', hc', same ▸ .kept (by simpa [hop] using hserved)⟩

/-- SEND_COMMAND's record on a channel below `N` (R211). -/
theorem exec_sendCommand_record {k : BitVec 4} {cmd : BitVec 11} {rep : BitVec 8} {s t : State}
    {c : Channel} (h : exec (.sendCommand k cmd rep) s = .next t) (hk : k.toNat < s.bus.n)
    (hc : s.ch[k.toNat]? = some c) :
    t.ch[k.toNat]? = some (commandChannel s.config cmd rep s.ports.now c) := by
  have hr : inRange k s = true := by simpa [inRange] using hk
  simp only [exec, execSendCommand, hr, if_true] at h
  split at h
  · cases h
    simp [hc, opNow]
  · cases h

/-! ### The round robin (R182) -/

/-- A step consumes its input, which says whether it is a reset or a START. -/
theorem step_input {s s' : State} (h : step s = .next s') :
    ∃ x, s.inputs = x :: s'.inputs ∧ resetNext s = x.isReset ∧
      (x.isStart = true ↔ nextOp s = some .start) := by
  obtain ⟨w, p, rest, i, hin, -, -, -, hex⟩ | ⟨n, speedKhz, t0, rest, hin, -, rfl⟩ := step_inv h
  · obtain ⟨-, -, hinputs, -⟩ := exec_keeps hex
    exact ⟨_, by rw [hin, hinputs]; rfl, by simp [resetNext, hin],
      by simp [Input.isStart, nextOp, hin]⟩
  · exact ⟨_, hin, by simp [resetNext, hin], by simp [Input.isStart, nextOp, hin]⟩

/-- In a run with no reset `N` stays and the pointer counts the STARTs modulo `N`. -/
theorem run_pointer {k : Nat} {s t : State} (hs : s.Running)
    (hfree : (s.inputs.take k).all (fun x => !x.isReset) = true)
    (hrun : Sys2Proof.core.run k s = .next t) :
    t.bus.n = s.bus.n ∧ t.bus.currentChannel =
      (s.bus.currentChannel + ((s.inputs.take k).filter Input.isStart).length) % s.bus.n := by
  induction k generalizing s with
  | zero =>
    obtain rfl := run_zero_inv hrun
    simp [Nat.mod_eq_of_lt hs.pointer]
  | succ k ih =>
    obtain ⟨s', hstep, hrun'⟩ := run_succ_inv hrun
    obtain ⟨x, hin, hreset, hstart⟩ := step_input hstep
    rw [hin, List.take_succ_cons, List.all_cons, Bool.and_eq_true, Bool.not_eq_true'] at hfree
    obtain ⟨hx, hfree'⟩ := hfree
    obtain ⟨hs', -, hn⟩ := step_running hstep (hreset.trans hx) hs
    obtain ⟨hn', hpointer⟩ := ih hs' hfree' hrun'
    obtain ⟨i, p, rest, hop, -, -, -, hex⟩ := step_of_not_reset hstep (hreset.trans hx)
    have hstep_pointer := exec_currentChannel hex hs.pointer
    have hi : i = .start ↔ x.isStart = true := by simp [hstart, hop]
    refine ⟨hn'.trans hn, ?_⟩
    rw [hpointer, hn, hstep_pointer, hin, List.take_succ_cons, List.filter_cons]
    simp only [presented_bus, Nat.mod_add_mod, hi]
    split <;> simp [Nat.add_assoc, Nat.add_comm 1]

/-- Settles O54: a START moves the pointer one step around the ring, and reset leaves it on the
last channel. -/
theorem roundRobinIsFair : Obligations.RoundRobinIsFair := by
  refine ⟨fun k s t hinv hcon hfree hrun => run_pointer (hinv.running hcon) hfree hrun, ?_⟩
  intro cfg n speedKhz t0 inputs k t _ hn hm hs hs' hfree hone hrun
  obtain ⟨-, hpointer⟩ := run_pointer (afterReset_running t0 inputs hn hm hs hs') hfree hrun
  have around : ∀ m, 1 ≤ m → (n - 1 + m) % n = (m - 1) % n := fun m hm => by
    rw [show n - 1 + m = m - 1 + n by omega, Nat.add_mod_right]
  exact hpointer.trans (around _ hone)

/-! ### Repeated commands (R183) -/

/-- What a record holds that was sent a command with repeat count `rep`, after `m` STARTs on it:
the command's frame while `m < rep`, and from then on `last`, its last throttle frame. -/
structure Channel.Repeats (command last : Frame) (rep m : Nat) (c : Channel) : Prop where
  last_kept : c.lastThrottleFrame = last
  resident : m < rep → c.frame = command ∧ c.repeatCounter.toNat = rep - m
  reverted : rep ≤ m → c.frame = last ∧ c.repeatCounter = 0

section
variable {command last : Frame} {rep m : Nat} {c : Channel}

/-- The first `rep` STARTs count down from `rep`, and the last of them reverts the frame. -/
theorem Channel.Repeats.served (h : c.Repeats command last rep m) (now : Nat) (ready : Bool) :
    (served now ready c).Repeats command last rep (m + 1) := by
  obtain ⟨stays, reverts, -⟩ := repeatStep_cases c
  refine ⟨by simpa using h.last_kept, fun hm => ?_, fun hm => ?_⟩
  · obtain ⟨hframe, hcounter⟩ := h.resident (by omega)
    rw [served_frame, served_repeatCounter, repeatStep_frame, repeatStep_counter,
      if_neg (by bv_omega)]
    exact ⟨hframe, by omega⟩
  · rw [served_frame, served_repeatCounter]
    obtain hlt | hge := Nat.lt_or_ge m rep
    · obtain ⟨-, hcounter⟩ := h.resident hlt
      have one : c.repeatCounter = 1 := by bv_omega
      simp [reverts one, h.last_kept]
    · obtain ⟨hframe, hcounter⟩ := h.reverted hge
      rw [stays hcounter]
      exact ⟨hframe, hcounter⟩

theorem Channel.Repeats.countRx (h : c.Repeats command last rep m) (status : Status) :
    (countRx status c).Repeats command last rep m :=
  ⟨by simpa using h.last_kept, by simpa using h.resident, by simpa using h.reverted⟩

/-- Along an undisturbed run the STARTs that address the channel count its repetitions. -/
theorem RunFree.repeats {j k : Nat} {s t : State} (hrun : RunFree (disturbs j) k s t)
    (hs : s.Running) (hc : s.ch[j]? = some c) (h : c.Repeats command last rep m) :
    ∃ r, t.ch[j]? = some r ∧ r.Repeats command last rep (m + startsOn j k s) := by
  induction hrun generalizing m c with
  | stop => exact ⟨c, hc, h⟩
  | @step k s s' t quiet first others ih =>
    obtain ⟨hs', -⟩ := step_running first (resetNext_of_quiet quiet) hs
    obtain ⟨c', hc', hw⟩ := step_quiet first hs quiet hc
    rw [startsOn_succ first, ← Nat.add_assoc]
    cases hw with
    | served start => rw [if_pos start]; exact ih hs' hc' (h.served _ _)
    | kept other => rw [if_neg other]; exact ih hs' hc' h
    | counted other status => rw [if_neg other]; exact ih hs' hc' (h.countRx status)

end

/-- Settles O55: SEND_COMMAND leaves a record that has had none of its repetitions. -/
theorem repeatedCommandsStayForTheirCount : Obligations.RepeatedCommandsStayForTheirCount := by
  intro c command rep s s₁ t old k hinv hcon hrep hk hold hsend hfree hrun
  have hsent : (commandChannel s.config command rep s.ports.now old).Repeats
      (encodeFrame command 1) old.lastThrottleFrame rep.toNat 0 :=
    ⟨rfl, fun _ => ⟨rfl, rfl⟩, fun h => absurd h (by omega)⟩
  obtain ⟨r, hr, last_kept, resident, reverted⟩ := (runFree_of_run hfree hrun).repeats
    (exec_running hsend (hinv.running hcon)) (exec_sendCommand_record hsend hk hold) hsent
  rw [Nat.zero_add] at resident reverted
  exact ⟨r, hr, last_kept, resident, reverted⟩

/-! ### Delays (R184) -/

/-- The delay of the two delay-bearing commands, whose numbers differ (R212). -/
theorem delayFor_of_delaying {cfg : Config} (hl : cfg.Legal) {command : BitVec 11} {wait : Nat}
    (h : (command = cfg.cmdSaveSettings ∧ wait = 35000) ∨
      (command = cfg.cmdInfoRequest ∧ wait = 12000)) (now : Nat) :
    delayFor cfg command now = some (now + wait) := by
  obtain ⟨rfl, rfl⟩ | ⟨rfl, rfl⟩ := h
  · exact if_pos rfl
  · rw [delayFor, if_neg hl.differ.symm, if_pos rfl]

/-- Along an undisturbed run time goes on (R283). -/
theorem RunFree.now_le {j k : Nat} {s t : State} (hrun : RunFree (disturbs j) k s t) :
    s.ports.now ≤ t.ports.now := by
  induction hrun with
  | stop => exact le_rfl
  | step quiet first _ ih => exact (step_now_le first (resetNext_of_quiet quiet)).trans ih

/-- Along an undisturbed run that ends before the deadline, each START on the channel finds it
pending. -/
theorem RunFree.silent {j k d : Nat} {s t : State} {c : Channel}
    (hrun : RunFree (disturbs j) k s t) (hs : s.Running) (hc : s.ch[j]? = some c)
    (hd : c.delayDeadline = some d) (hnow : t.ports.now < d) :
    ∃ r, t.ch[j]? = some r ∧ r.txFrames = c.txFrames ∧ r.delayDeadline = some d := by
  induction hrun generalizing c with
  | stop => exact ⟨c, hc, rfl, hd⟩
  | step quiet first others ih =>
    obtain ⟨hs', -⟩ := step_running first (resetNext_of_quiet quiet) hs
    obtain ⟨c', hc', hw⟩ := step_quiet first hs quiet hc
    obtain ⟨hd', htx⟩ : c'.delayDeadline = some d ∧ c'.txFrames = c.txFrames := by
      cases hw with
      | served => exact served_of_pending hd (others.now_le.trans_lt hnow)
      | kept | counted => simpa using hd
    rw [← htx]
    exact ih hs' hc' hd' hnow

/-- Settles O57: the command sets the deadline, and time goes on to it along the run. -/
theorem delayedChannelsStaySilent : Obligations.DelayedChannelsStaySilent := by
  intro c command rep s s₁ t old k wait hinv hcon hdelay hk hold hsend hfree hrun hnow
  have hdeadline := delayFor_of_delaying hinv.legal hdelay s.ports.now
  have hsilent := (runFree_of_run hfree hrun).silent (exec_running hsend (hinv.running hcon))
    (exec_sendCommand_record hsend hk hold) hdeadline hnow
  exact hsilent

/-! ### The idle failsafe (R185) -/

/-- Where no host call on a channel below `N`, no reset and no failsafe comes, `last_command_time`
stands. -/
theorem step_lastCommandTime {s s' : State} (h : step s = .next s') (hs : s.Running)
    (hcall : hostCallNext s = false) (hreset : resetNext s = false)
    (hfail : failsafeNext s = false) : s'.bus.lastCommandTime = s.bus.lastCommandTime := by
  obtain ⟨i, p, rest, hop, htime, -, hnow, hex⟩ := step_of_not_reset h hreset
  cases exec_effect hex with
  | silent | start => simp
  | throttle k v in_range | command k cmd rep in_range =>
    have : inRange k s = true := by simpa [inRange] using in_range
    simp [hostCallNext, hop, this] at hcall
  | complete =>
    have hp := presented_running rest hs hnow
    have hdue := failsafe_not_due hop htime hfail
    exact (completeWith_not_due hp.records hp.pointer hdue).1

/-- So it stands along a run of such steps. -/
theorem RunFree.idle {k : Nat} {s t : State}
    (hrun : RunFree (fun x => hostCallNext x || resetNext x || failsafeNext x) k s t)
    (hs : s.Running) (hcon : s.constructed = true) :
    t.Running ∧ t.constructed = true ∧ t.bus.n = s.bus.n ∧
      t.bus.lastCommandTime = s.bus.lastCommandTime := by
  induction hrun with
  | stop => exact ⟨hs, hcon, rfl, rfl⟩
  | step good first others ih =>
    simp only [Bool.or_eq_false_iff] at good
    obtain ⟨⟨hcall, hreset⟩, hfail⟩ := good
    obtain ⟨hs', hcon', hn⟩ := step_running first hreset hs
    obtain ⟨ht, hcont, hnt, hlast⟩ := ih hs' hcon'
    exact ⟨ht, hcont, hnt.trans hn, hlast.trans (step_lastCommandTime first hs hcall hreset hfail)⟩

/-- Settles O58: COMPLETE runs in a running bus whose `last_command_time` is the old one, so its
failsafe is due. -/
theorem idleBusesAreNeutralised : Obligations.IdleBusesAreNeutralised := by
  intro k s t p rest hinv hcon hfree hrun
  obtain ⟨ht, hcont, hn, hlast⟩ := (runFree_of_run hfree hrun).idle (hinv.running hcon) hcon
  refine ⟨hlast, fun hin hphase hword hnow hlate => ?_⟩
  have hp := presented_running rest ht hnow
  obtain ⟨t', hex, hlength, hneutral, -⟩ :=
    completeAppliesTheFailsafe (presented p rest t) hphase hp.records hp.pointer hword
  have hstep := step_admitted hin hcont (decode_encode (i := .complete) rfl) hnow
  exact ⟨t', hstep.trans hex, hlength.trans (ht.records.trans hn), (hneutral (hlast ▸ hlate)).2⟩

end Sys2Proof.Machine
end

section
/-!
PROOFS. The host commands (spec 43_host_commands.md): where SET_THROTTLE and SEND_COMMAND write and
where they are silent no-ops (R210, R211, R216), that a host call overrides what its channel held
(R213), and what the two reads return (R214, R215).
-/

namespace Sys2Proof.Machine

theorem inRange_iff {c : BitVec 4} {s : State} : inRange c s = true ↔ c.toNat < s.bus.n :=
  decide_eq_true_iff

/-! ### The two branches of a host call -/

section
variable {s : State} {c : BitVec 4}

theorem exec_setThrottle_of_lt (value : BitVec 11) (hc : c.toNat < s.bus.n) :
    exec (.setThrottle c value) s = .next (throttlePath c.toNat value s.ports.now s) :=
  if_pos (inRange_iff.mpr hc)

/-- A channel at or above `N` is a silent no-op (R216). -/
theorem exec_setThrottle_of_ge (value : BitVec 11) (hc : s.bus.n ≤ c.toNat) :
    exec (.setThrottle c value) s = .next s :=
  if_neg (mt inRange_iff.mp hc.not_gt)

theorem exec_sendCommand_of_lt {command : BitVec 11} (rep : BitVec 8) (hcmd : command.toNat ≤ 47)
    (hc : c.toNat < s.bus.n) :
    exec (.sendCommand c command rep) s =
      .next (commandPath c.toNat command rep s.ports.now s) :=
  (if_pos hcmd).trans (if_pos (inRange_iff.mpr hc))

/-- A channel at or above `N` is a silent no-op (R216). -/
theorem exec_sendCommand_of_ge {command : BitVec 11} (rep : BitVec 8) (hcmd : command.toNat ≤ 47)
    (hc : s.bus.n ≤ c.toNat) : exec (.sendCommand c command rep) s = .next s :=
  (if_pos hcmd).trans (if_neg (mt inRange_iff.mp hc.not_gt))

end

/-! ### The delay policy (R212) -/

theorem delayFor_saveSettings (cfg : Config) (now : Nat) :
    delayFor cfg cfg.cmdSaveSettings now = some (now + 35000) :=
  if_pos rfl

theorem delayFor_infoRequest {cfg : Config} (hdiffer : cfg.cmdSaveSettings ≠ cfg.cmdInfoRequest)
    (now : Nat) : delayFor cfg cfg.cmdInfoRequest now = some (now + 12000) :=
  (if_neg hdiffer.symm).trans (if_pos rfl)

theorem delayFor_other {cfg : Config} {command : BitVec 11} (hsave : command ≠ cfg.cmdSaveSettings)
    (hinfo : command ≠ cfg.cmdInfoRequest) (now : Nat) : delayFor cfg command now = none :=
  (if_neg hsave).trans (if_neg hinfo)

/-! ### A host call overrides its channel (R213) -/

/-- A write to a record whose outcome does not depend on the frame, the repeat counter and the
delay the record held. -/
def OverridesPending (f : Channel → Channel) : Prop :=
  ∀ (old : Channel) (frame : Frame) (rep : BitVec 8) (delay : Option Nat),
    f { old with frame := frame, repeatCounter := rep, delayDeadline := delay } = f old

theorem throttleChannel_overridesPending (value : BitVec 11) :
    OverridesPending (throttleChannel value) := fun _ _ _ _ => rfl

theorem commandChannel_overridesPending (cfg : Config) (command : BitVec 11) (rep : BitVec 8)
    (now : Nat) : OverridesPending (commandChannel cfg command rep now) := fun _ _ _ _ => rfl

/-- On a channel below `N` both host calls are one write to its record, the same whatever the
records hold, and one to `last_command_time`. -/
theorem exec_hostCall {i : Instr} {c : BitVec 4} {s : State}
    (hi : (∃ value, i = .setThrottle c value) ∨
      ∃ command r, i = .sendCommand c command r ∧ command.toNat ≤ 47)
    (hc : c.toNat < s.bus.n) :
    ∃ f, OverridesPending f ∧ ∀ records : List Channel,
      exec i { s with ch := records } =
        .next (setLastCommandTime s.ports.now
          { s with ch := records.modify c.toNat f }) := by
  obtain ⟨value, rfl⟩ | ⟨command, rep, rfl, hcmd⟩ := hi
  · exact ⟨_, throttleChannel_overridesPending value, fun records =>
      exec_setThrottle_of_lt (s := { s with ch := records }) value hc⟩
  · exact ⟨_, commandChannel_overridesPending s.config command rep s.ports.now, fun records =>
      exec_sendCommand_of_lt (s := { s with ch := records }) rep hcmd hc⟩

/-! ### The obligations -/

/-- Settles O20: the two branches of SET_THROTTLE. -/
theorem setThrottleWritesItsChannel : Obligations.SetThrottleWritesItsChannel := by
  refine fun c value s => ⟨fun old hc hold => ?_, exec_setThrottle_of_ge value⟩
  rw [exec_setThrottle_of_lt value hc, throttlePath_frame, modify_eq_set hold]
  rfl

/-- Settles O21: the deadline is the delay policy's, and the command range admits the command. -/
theorem sendCommandLoadsItsChannel : Obligations.SendCommandLoadsItsChannel := by
  refine fun c command rep s hcmd hdiffer =>
    ⟨fun old hc hold => ⟨delayFor s.config command s.ports.now, ?_, ?_, ?_, ?_⟩,
      exec_sendCommand_of_ge rep hcmd⟩
  · rintro rfl
    exact delayFor_saveSettings _ _
  · rintro rfl
    exact delayFor_infoRequest hdiffer _
  · exact fun hsave hinfo => delayFor_other hsave hinfo _
  · rw [exec_sendCommand_of_lt rep hcmd hc, commandPath_frame, modify_eq_set hold]
    rfl

/-- Settles O23: whatever the record held, the call's one write makes the same of it. -/
theorem hostCallsOverrideOnlyTheirChannel : Obligations.HostCallsOverrideOnlyTheirChannel := by
  intro i c s old frame rep delay hi hc hold
  obtain ⟨f, hf, hexec⟩ := exec_hostCall hi hc
  refine ⟨_, hexec s.ch, ?_, fun j hj => List.getElem?_modify_ne f s.ch hj.symm, rfl⟩
  have hlen := (List.getElem?_eq_some_iff.mp hold).1
  rw [hexec, modify_eq_set (List.getElem?_set_self hlen), hf, List.set_set, modify_eq_set hold]

/-- Settles O24: a channel below `N` has its record. -/
theorem readChannelReturnsTheRecord : Obligations.ReadChannelReturnsTheRecord := by
  intro c s hlen
  refine ⟨if inRange c s then s.ch[c.toNat]? else none, rfl, fun hc => ?_, fun hc => ?_⟩
  · rw [if_pos (inRange_iff.mpr hc)]
    exact ⟨_, List.getElem?_eq_getElem (hlen ▸ hc), List.getElem?_eq_getElem (hlen ▸ hc)⟩
  · exact if_neg (mt inRange_iff.mp hc.not_gt)

/-- Settles O25: READ_BUS returns the bus record, whose fields are the six registers. -/
theorem readBusReturnsTheRegisters : Obligations.ReadBusReturnsTheRegisters := fun _ => rfl

end Sys2Proof.Machine
end

section
/-!
PROOFS. Why the block stops (spec 60_exceptions.md): when each of the operations faults, which it
does in no sound state but for COMPLETE's wait (R240, R66), and that a step is refused exactly
where a row of R245's table holds, under the name of such a row.
-/

namespace Sys2Proof.Machine

section
variable {s : State}

/-! ### Where an operation faults -/

/-- The only faults of a meaning: the addressed channel has no record, or COMPLETE has no word. -/
theorem exec_fault_inv {i : Instr} {f : Fault} (h : exec i s = .fault f) :
    (i = .start ∧ f = .noSuchChannel ∧ s.ch[(advance s).bus.currentChannel]? = none) ∨
    (i = .complete ∧ f = .noSuchChannel ∧ s.ch[s.bus.currentChannel]? = none) ∨
    (i = .complete ∧ f = .awaitingRxWord ∧ receivedWord s = none) := by
  cases i with
  | encode p b => cases h
  | decode => cases h
  | readChannel c => cases h
  | readBus => cases h
  | setThrottle c v =>
    simp only [exec, execSetThrottle] at h
    split at h <;> cases h
  | sendCommand c cmd rep =>
    simp only [exec, execSendCommand] at h
    split at h
    · split at h <;> cases h
    · cases h
  | start =>
    simp only [exec, execStart, startCycle, advance_ch] at h
    split at h
    · split at h
      · cases h
        exact .inl ⟨rfl, rfl, ‹_›⟩
      · cases h
    · cases h
  | complete =>
    simp only [exec, execComplete, completeCycle] at h
    split at h
    · split at h
      · cases h
        exact .inr (.inr ⟨rfl, rfl, ‹_›⟩)
      · split at h
        · cases h
          exact .inr (.inl ⟨rfl, rfl, ‹_›⟩)
        · cases h
    · cases h

/-- On a running bus every channel below `N` has its record (R20). -/
theorem State.Running.record_ne_none (hs : s.Running) {k : Nat} (hk : k < s.bus.n) :
    s.ch[k]? ≠ none := by
  rw [Ne, List.getElem?_eq_none_iff, hs.records]
  exact hk.not_ge

/-! ### Where an operation is refused -/

theorem exec_sendCommand_of_gt (c : BitVec 4) {command : BitVec 11} (rep : BitVec 8)
    (hcmd : 47 < command.toNat) :
    exec (.sendCommand c command rep) s = .refused .commandRange :=
  if_neg hcmd.not_ge

theorem exec_start_of_awaitRx (hp : s.bus.phase = .awaitRx) :
    exec .start s = .refused .phaseOrder := by
  simp [exec, execStart, hp]

theorem exec_complete_of_idle (hp : s.bus.phase = .idle) :
    exec .complete s = .refused .phaseOrder := by
  simp [exec, execComplete, hp]

/-! ### Where a step is refused (R245) -/

variable {w : Word} {p : Ports} {rest : List Input}

/-- A step on an operation word, in the order of the checks: before the first reset, no operation,
an early `now`, or the operation's meaning. -/
theorem step_op_cases (hin : s.inputs = .op w p :: rest) :
    (s.constructed = false ∧ step s = .refused .beforeReset) ∨
    (∃ e, decode w = .error e ∧ step s = .refused (refusalOf e)) ∨
    (p.now < s.ports.now ∧ step s = .refused .timeReversal) ∨
    ∃ i, s.constructed = true ∧ decode w = .ok i ∧ s.ports.now ≤ p.now ∧
      step s = exec i (presented p rest s) := by
  cases hcon : s.constructed with
  | false => exact .inl ⟨rfl, by simp [step, hin, consume, admission, hcon]⟩
  | true =>
    right
    cases hdec : decode w with
    | error e => exact .inl ⟨e, rfl, step_undecodable hin hcon hdec⟩
    | ok i =>
      right
      by_cases hnow : p.now < s.ports.now
      · exact .inl ⟨hnow, by simp [step, hin, consume, admission, hcon, hdec, hnow]⟩
      · exact .inr ⟨i, rfl, rfl, not_lt.mp hnow, step_admitted hin hcon hdec (not_lt.mp hnow)⟩

/-- A reset is refused, as BadConfig, where it does not accept its arguments (R270). -/
theorem step_reset_eq_refused_iff {n speedKhz t0 : Nat} {r : Refusal}
    (hin : s.inputs = .reset n speedKhz t0 :: rest) :
    step s = .refused r ↔ r = .badConfig ∧ ¬resetArgsLegal s.config n speedKhz = true := by
  simp only [step, hin, consume, resetBus]
  split
  · simp [*]
  · simp [*, eq_comm]

/-! ### The rows of R245 -/

/-- The rows about an operation: the decoder answers as the first two rows say (R94). -/
theorem refusalRow_op_iff {r : Refusal} (hin : s.inputs = .op w p :: rest) :
    refusalRow s r ↔
      (r = .illegalOp ∧ decode w = .error .illegalOp) ∨
      (r = .commandRange ∧ decode w = .error .commandRange) ∨
      (r = .phaseOrder ∧
        (decode w = .ok .start ∧ s.bus.phase = .awaitRx ∨
          decode w = .ok .complete ∧ s.bus.phase = .idle)) ∨
      (r = .timeReversal ∧ p.now < s.ports.now) ∨
      (r = .beforeReset ∧ s.constructed = false) := by
  simp only [refusalRow, hin, decode_eq_illegalOp_iff, decode_eq_commandRange_iff, OpRow.selects,
    beq_iff_eq, ne_eq]

/-- The row about a reset: its arguments are not those a reset accepts (R270). -/
theorem refusalRow_reset_iff {n speedKhz t0 : Nat} {r : Refusal}
    (hin : s.inputs = .reset n speedKhz t0 :: rest) :
    refusalRow s r ↔ r = .badConfig ∧ ¬resetArgsLegal s.config n speedKhz = true := by
  simp only [refusalRow, hin, resetArgsLegal_iff]
  exact and_congr_right fun _ => by omega

/-- An operation word is refused only under the name of a row that holds. -/
theorem refusalRow_of_step_op {r : Refusal} (hin : s.inputs = .op w p :: rest)
    (h : step s = .refused r) : refusalRow s r := by
  rw [refusalRow_op_iff hin]
  obtain ⟨hcon, hs⟩ | ⟨e, hdec, hs⟩ | ⟨hnow, hs⟩ | ⟨i, -, hdec, -, hs⟩ := step_op_cases hin
  · cases hs.symm.trans h
    simp [hcon]
  · cases hs.symm.trans h
    cases e <;> simp [refusalOf, hdec]
  · cases hs.symm.trans h
    simp [hnow]
  · obtain ⟨hw, -⟩ | ⟨rfl, hp, rfl⟩ | ⟨rfl, hp, rfl⟩ := exec_refused_inv (hs.symm.trans h)
    · obtain ⟨-, -, -, -, hw'⟩ := decode_eq_ok_iff.mp hdec
      exact absurd hw' (by simp [hw])
    · simp [hdec, show s.bus.phase = .awaitRx from hp]
    · simp [hdec, show s.bus.phase = .idle from hp]

/-- An operation word is refused wherever a row holds: of an admitted operation only PhaseOrder's
row can hold, and its meaning refuses it. -/
theorem step_op_refused_of_refusalRow {r : Refusal} (hin : s.inputs = .op w p :: rest)
    (h : refusalRow s r) : ∃ r', step s = .refused r' := by
  obtain ⟨-, hs⟩ | ⟨e, -, hs⟩ | ⟨-, hs⟩ | ⟨i, hcon, hdec, hnow, hs⟩ := step_op_cases hin
  · exact ⟨_, hs⟩
  · exact ⟨_, hs⟩
  · exact ⟨_, hs⟩
  · rw [hs]
    obtain ⟨-, hd⟩ | ⟨-, hd⟩ | ⟨-, ⟨hd, hp⟩ | ⟨hd, hp⟩⟩ | ⟨-, hlt⟩ | ⟨-, hc⟩ :=
      (refusalRow_op_iff hin).mp h
    · cases hd.symm.trans hdec
    · cases hd.symm.trans hdec
    · cases hd.symm.trans hdec
      exact ⟨_, exec_start_of_awaitRx hp⟩
    · cases hd.symm.trans hdec
      exact ⟨_, exec_complete_of_idle hp⟩
    · exact absurd hlt hnow.not_gt
    · cases hc.symm.trans hcon

end

/-! ### The obligations -/

/-- Settles O46, by the next input: an operation word is checked in turn, a reset by its arguments,
and with a teardown or no input there is no row and no refusal. -/
theorem refusalsAreTheTablesRows : Obligations.RefusalsAreTheTablesRows := by
  intro s
  cases hin : s.inputs with
  | nil => simp [step, refusalRow, hin]
  | cons x rest =>
    cases x with
    | op w p =>
      exact ⟨fun _ => refusalRow_of_step_op hin, fun _ => step_op_refused_of_refusalRow hin⟩
    | reset n speedKhz t0 =>
      have same (r : Refusal) : step s = .refused r ↔ refusalRow s r :=
        (step_reset_eq_refused_iff hin).trans (refusalRow_reset_iff hin).symm
      exact ⟨fun r => (same r).mp, fun r h => ⟨r, (same r).mpr h⟩⟩
    | teardown => simp [step, refusalRow, consume, hin]

/-- Settles O52: the invariant gives the addressed channel its record, before and after START's
advance, which leaves COMPLETE's wait. -/
theorem onlyTheReceiveWaitStops : Obligations.OnlyTheReceiveWaitStops := by
  intro i s f hinv hcon h
  have hs := hinv.running hcon
  obtain ⟨-, -, hnone⟩ | ⟨-, -, hnone⟩ | ⟨hi, hf, hword⟩ := exec_fault_inv h
  · exact absurd hnone (hs.record_ne_none (advance_pointer_lt s hs.pointer))
  · exact absurd hnone (hs.record_ne_none hs.pointer)
  · exact ⟨hi, hf, (receivedWord_eq_none_iff.mp hword).1⟩

/-- That stop is met from the invariant: by a COMPLETE right after the first START, with no word
presented and no bound on the wait (R66). -/
theorem exists_inv_complete_waits :
    ∃ s : State, s.Inv ∧ s.constructed = true ∧ exec .complete s = .fault .awaitingRxWord := by
  have hreset : State.reset.Inv := invariantHoldsAfterReset.2
  have hrun : (presented ⟨1, true, 0, false⟩ [] State.reset).Running :=
    presented_running [] (hreset.running rfl) (Nat.zero_le 1)
  obtain ⟨c, -, hstart⟩ := exec_start_next _ rfl hrun.records hrun.pointer
  obtain ⟨hconfig, hcon, -, hports, -⟩ := exec_keeps hstart
  have hbound : defaultConfig.rxWaitBound = none := rfl
  refine ⟨_, ⟨hconfig ▸ hreset.legal, fun _ => exec_running hstart hrun⟩, hcon,
    exec_complete_waiting (exec_start_awaits hstart hrun.pointer).1
      (receivedWord_eq_none_iff.mpr ⟨by rw [hports]; rfl, fun d hd => ?_⟩)⟩
  cases (hconfig ▸ hd).symm.trans hbound

/-- Settles O22: SEND_COMMAND's range check fails. -/
theorem commandsAbove47AreRefused : Obligations.CommandsAbove47AreRefused :=
  fun c _ rep _ hcmd => exec_sendCommand_of_gt c rep hcmd

end Sys2Proof.Machine
end

section
/-!
PROOFS. Reset and hazards (spec 70_reset_and_hazards.md): which resets and operations are refused
(R270, R274, R283), that a reset forgets the run before it (R272), and what START submits after a
command with repeat count 1 (R277) and with repeat count 0 (R279).
-/

namespace Sys2Proof.Machine

/-! ### What START submits -/

section
variable {s : State} {c : Channel} {j : Nat}

/-- START on the record it addresses: it serves the record, and its last event is a `Submit` of the
frame the repeat step leaves, if it submits at all (R171 to R174). -/
theorem exec_start_on (hp : s.bus.phase = .idle) (hl : s.ch.length = s.bus.n)
    (hk : s.bus.currentChannel < s.bus.n) (haddr : addressedByStart s = j)
    (hc : s.ch[j]? = some c) :
    ∃ t es, exec .start s = .next t ∧
      t.ch[j]? = some (served s.ports.now s.ports.txReady c) ∧
      (∀ frame cycles, Event.submit frame cycles ∉ es) ∧
      t.events = s.events ++ es ++
        if submits s.ports.txReady (expireDelay s.ports.now (repeatStep c)) then
          [.submit (repeatStep c).frame s.bus.bitPeriodCycles] else [] := by
  subst haddr
  obtain ⟨t, c₀, he, hc₀, -, -, hev, -⟩ := exec_start_spec s hp hl hk
  rw [exec_start_addresses he, hc] at hc₀
  obtain rfl : c = c₀ := Option.some.inj hc₀
  refine ⟨t, _, he, exec_start_served he hc, fun frame cycles => ?_, hev⟩
  split <;> simp

/-- The repeat step at counter 1 takes it to 0 and reverts the frame (R172). -/
theorem repeatStep_of_one (h : c.repeatCounter = 1) :
    (repeatStep c).frame = c.lastThrottleFrame ∧ (repeatStep c).repeatCounter = 0 := by
  obtain ⟨-, reverts, -⟩ := repeatStep_cases c
  rw [reverts h]
  exact ⟨rfl, rfl⟩

/-- START's expiry step leaves no deadline where none is later than its `now` (R173). -/
theorem expireDelay_of_none_later {now : Nat} (h : ∀ d, c.delayDeadline = some d → d ≤ now) :
    (expireDelay now c).delayDeadline = none := by
  cases hd : c.delayDeadline with
  | none => exact expireDelay_of_none hd
  | some d => exact expireDelay_of_reached hd (h d hd)

end

/-! ### Channels that are not repeating (R172, R279) -/

/-- What stands on a record that is not repeating: its frame, its last throttle frame and the
counter's 0. -/
structure Channel.Resident (command last : Frame) (c : Channel) : Prop where
  frame_stands : c.frame = command
  counter_zero : c.repeatCounter = 0
  last_kept : c.lastThrottleFrame = last

section
variable {command last : Frame} {s s' t : State} {j k : Nat} {c c' : Channel}

/-- START's repeat step does nothing at counter 0, and no other quiet write touches these
registers. -/
theorem QuietWrite.resident (hw : QuietWrite s s' j c c') (h : c.Resident command last) :
    c'.Resident command last := by
  obtain ⟨hframe, hcounter, hlast⟩ := h
  cases hw with
  | served =>
    have stays := (repeatStep_cases c).1 hcounter
    exact ⟨by rw [served_frame, stays, hframe], by rw [served_repeatCounter, stays, hcounter],
      by rw [served_lastThrottleFrame, hlast]⟩
  | kept => exact ⟨hframe, hcounter, hlast⟩
  | counted _ status => exact ⟨by simpa, by simpa, by simpa⟩

/-- An undisturbed run keeps a running bus running. -/
theorem RunFree.running (hrun : RunFree (disturbs j) k s t) (hs : s.Running)
    (hcon : s.constructed = true) : t.Running ∧ t.constructed = true := by
  induction hrun with
  | stop => exact ⟨hs, hcon⟩
  | step quiet first _ ih =>
    obtain ⟨hs', hcon', -⟩ := step_running first (resetNext_of_quiet quiet) hs
    exact ih hs' hcon'

/-- Along an undisturbed run a frame that is not repeating stays. -/
theorem RunFree.resident (hrun : RunFree (disturbs j) k s t) (hs : s.Running)
    (hc : s.ch[j]? = some c) (h : c.Resident command last) :
    ∃ r, t.ch[j]? = some r ∧ r.Resident command last := by
  induction hrun generalizing c with
  | stop => exact ⟨c, hc, h⟩
  | step quiet first _ ih =>
    obtain ⟨hs', -⟩ := step_running first (resetNext_of_quiet quiet) hs
    obtain ⟨c', hc', hw⟩ := step_quiet first hs quiet hc
    exact ih hs' hc' (hw.resident h)

/-- START submits the frame of the record it addresses where that is not repeating, no deadline is
left and the transport is ready (R172 to R174). -/
theorem exec_start_submits_resident (hs : s.Running) (hp : s.bus.phase = .idle)
    (haddr : addressedByStart s = j) (hc : s.ch[j]? = some c) (h : c.Resident command last)
    (hready : s.ports.txReady = true) (hd : ∀ d, c.delayDeadline = some d → d ≤ s.ports.now) :
    ∃ t es, exec .start s = .next t ∧
      t.events = s.events ++ es ++ [.submit command s.bus.bitPeriodCycles] := by
  obtain ⟨t, es, he, -, -, hev⟩ := exec_start_on hp hs.records hs.pointer haddr hc
  rw [if_pos (submits_iff.mpr ⟨expireDelay_of_none_later hd, hready⟩),
    (repeatStep_cases c).1 h.counter_zero, h.frame_stands] at hev
  exact ⟨t, es, he, hev⟩

end

/-- Settles O56: SEND_COMMAND leaves a record that is not repeating, the run keeps it so, and the
START at its end finds the command frame there. -/
theorem zeroRepeatCommandsStayResident : Obligations.ZeroRepeatCommandsStayResident := by
  intro c command s s₁ t old k hinv hcon hk hold hsend hfree hrun
  have hs₁ := exec_running hsend (hinv.running hcon)
  obtain ⟨-, hcon₁, -⟩ := exec_keeps hsend
  have hquiet := runFree_of_run hfree hrun
  obtain ⟨ht, hcont⟩ := hquiet.running hs₁ (hcon₁.trans hcon)
  have hsent : (commandChannel s.config command 0 s.ports.now old).Resident
      (encodeFrame command 1) old.lastThrottleFrame := ⟨rfl, rfl, rfl⟩
  obtain ⟨r, hr, hres⟩ := hquiet.resident hs₁ (exec_sendCommand_record hsend hk hold) hsent
  refine ⟨r, hr, hres.frame_stands, hres.counter_zero, hres.last_kept, ?_⟩
  intro p rest hin hphase hnow haddr hready hdeadline
  obtain ⟨t', es, hex, hev⟩ := exec_start_submits_resident (presented_running rest ht hnow) hphase
    ((addressedByStart_presented p rest t).trans haddr) hr hres hready hdeadline
  exact ⟨t', es, (step_admitted hin hcont (decode_encode (i := .start) rfl) hnow).trans hex, hev⟩

/-- Settles O32: the START's repeat step takes the counter from 1 to 0, which reverts the frame
before anything is submitted. -/
theorem oneShotCommandsAreNeverSent : Obligations.OneShotCommandsAreNeverSent := by
  intro c command s old hcmd hp hl hk hold hnext
  have hc : c.toNat < s.bus.n := hl ▸ (List.getElem?_eq_some_iff.mp hold).1
  have hsend := exec_sendCommand_of_lt (s := s) 1 hcmd hc
  have haddr : addressedByStart (commandPath c.toNat command 1 s.ports.now s) = c.toNat :=
    (advance_pointer (commandPath c.toNat command 1 s.ports.now s) hk).trans hnext
  obtain ⟨t, es, hstart, hserved, hselect, hev⟩ :=
    exec_start_on (s := commandPath c.toNat command 1 s.ports.now s) hp (by simpa using hl) hk
      haddr (exec_sendCommand_record hsend hc hold)
  obtain ⟨reverted, stopped⟩ :=
    repeatStep_of_one (c := commandChannel s.config command 1 s.ports.now old) rfl
  rw [reverted, List.append_assoc] at hev
  refine ⟨_, t, hsend, hstart, ⟨_, hserved, (served_frame ..).trans reverted,
    (served_repeatCounter ..).trans stopped⟩, _, hev, fun frame cycles hmem => ?_⟩
  obtain hmem | hmem := List.mem_append.mp hmem
  · exact absurd hmem (hselect frame cycles)
  · rw [List.mem_ite_nil_right, List.mem_singleton] at hmem
    obtain ⟨-, heq⟩ := hmem
    cases heq
    rfl

/-! ### Resets and refusals -/

section
variable {s : State} {rest : List Input}

/-- A step on a reset, in terms of the parameters and the inputs alone (R270 to R272). -/
theorem step_reset {n speedKhz t0 : Nat} (hin : s.inputs = .reset n speedKhz t0 :: rest) :
    step s = if resetArgsLegal s.config n speedKhz then
        .next (State.afterReset s.config n speedKhz t0 rest) else .refused .badConfig := by
  simp only [step, hin, consume, resetBus]

/-- Before the first reset an operation word is refused, whatever the decoder says of it. -/
theorem step_op_beforeReset {w : Word} {p : Ports} (hin : s.inputs = .op w p :: rest)
    (hcon : s.constructed = false) : step s = .refused .beforeReset := by
  simp [step, hin, consume, admission, hcon]

end

/-- Settles O41: the reset's next state names nothing else the bus held. -/
theorem resetForgetsTheRun : Obligations.ResetForgetsTheRun := by
  intro s s' n speedKhz t0 rest hin hin' hconfig
  rw [step_reset hin, step_reset (hin'.trans hin), hconfig]

/-- Settles O38: each of the two operations is defined in the other phase alone. -/
theorem outOfPhaseOperationsAreRefused : Obligations.OutOfPhaseOperationsAreRefused :=
  fun _ => ⟨exec_start_of_awaitRx, exec_complete_of_idle⟩

/-- Settles O40: the arguments are those of the row BadConfig of R245's table. -/
theorem badResetsAreRefused : Obligations.BadResetsAreRefused := by
  intro s n speedKhz t0 rest hin
  rw [step_reset_eq_refused_iff hin, ← refusalRow_reset_iff hin]
  simp [refusalRow, hin]

/-- Settles O43: admission asks first whether the bus has been reset. -/
theorem operationsBeforeResetAreRefused : Obligations.OperationsBeforeResetAreRefused :=
  fun _ _ _ _ => step_op_beforeReset

/-- Settles O44: of the four answers to an operation word only TimeReversal is left. -/
theorem timeReversalIsRefused : Obligations.TimeReversalIsRefused := by
  intro s w i p rest hin hcon hdec hnow
  obtain ⟨hfalse, -⟩ | ⟨e, herr, -⟩ | ⟨-, hs⟩ | ⟨-, -, -, hle, -⟩ := step_op_cases hin
  · cases hfalse.symm.trans hcon
  · cases herr.symm.trans hdec
  · exact hs
  · exact absurd hnow hle.not_gt

end Sys2Proof.Machine
end
